-- ==== Sys2Proof/Word.lean ====
section
/-! DEFINITION. The word type of the block: every value a frame or a register-file cell holds is one
unsigned byte (00_scope.md R7, 20_memory.md R35). Addresses, lengths and sums are exact naturals (R9), reached
from a byte by `BitVec.toNat`. -/

namespace Sys2Proof

/-- A byte: an unsigned 8-bit value 0..255 (R7). -/
abbrev Byte := BitVec 8

end Sys2Proof
end

