-- ==== Sys2Proof/Config.lean ====
section
/-! DEFINITION. The constants and parameters of 00_scope.md R5, and the free values of 93_implementation_defined.md
section 1. A constant has the value the source gives. An OPEN parameter is a field of `Config`; the instance that
leaves reset has opaque values, so nothing can be proved of them. -/

namespace Sys2Proof

/-- `STORE_SIZE`: the number of register-file cells (R5, R20). -/
abbrev storeSize : Nat := 64

/-- `STORE_ADDR_MAX`: the highest cell index (R5). -/
abbrev storeAddrMax : Nat := 63

/-- `IDENTITY_ADDR`: the reserved virtual address (R5, R21). -/
abbrev identityAddr : Byte := 0xFF

/-- `CTRL_LEN`: the bytes of a control frame (R5, R49). -/
abbrev ctrlLen : Nat := 3

/-- `DIR_WRITE`: the direction byte of a write (R5, R52). -/
abbrev dirWrite : Byte := 0

/-- `DIR_READ`: the direction byte of a read (R5, R52). -/
abbrev dirRead : Byte := 1

/-- `IDENT_QUERY_LEN`: the length byte of the codec's identity query (R5, R69). -/
abbrev identQueryLen : Byte := 1

/-- `RESERVED_DIR_POLICY`: what a control frame with direction 2..255 does (R5, R81, D5). -/
inductive ReservedDirPolicy where
  | ignore
  | asWrite
  | asRead
deriving DecidableEq, Repr

/-- The parameters of one instance of the block (R5, R109). No operation writes them (R15). -/
structure Config where
  /-- `READ_OFFSET`, OPEN: the same for the codec and the transport (R109, D3). -/
  readOffset : Nat
  /-- `PERIPH_ADDR`, OPEN: the byte an identity read answers (D4). -/
  periphAddr : Byte
  /-- `RX_CAPACITY` less 64, OPEN: the capacity is at least 64 (D21). -/
  rxExtra : Nat
  /-- `RESERVED_DIR_POLICY` (D5). -/
  reservedDirPolicy : ReservedDirPolicy
deriving DecidableEq, Repr

/-- `RX_CAPACITY`: the bytes the inbound slot holds, at least 64 (R5, R22). -/
def Config.rxCapacity (c : Config) : Nat := 64 + c.rxExtra

/-- `READ_OFFSET` of the instance that leaves reset: OPEN, no value can be proved of it (R5, D3; assumption 1). -/
opaque Config.chipReadOffset : Nat

/-- `PERIPH_ADDR` of the instance that leaves reset: OPEN (R5, D4). -/
opaque Config.chipPeriphAddr : Byte

/-- `RX_CAPACITY` less 64 of the instance that leaves reset: OPEN (R5, D21). -/
opaque Config.chipRxExtra : Nat

/-- The instance that leaves reset: the OPEN parameters are opaque, and the reserved directions are ignored,
which is the spec's choice for this hardware (R5, R52, D5). -/
def Config.chip : Config where
  readOffset := Config.chipReadOffset
  periphAddr := Config.chipPeriphAddr
  rxExtra := Config.chipRxExtra
  reservedDirPolicy := .ignore

/-- A free draw: "any value" of 93_implementation_defined.md U1 to U4, one fresh index for each draw
(`INIT_STORE`, the pending registers after reset, the transport's artifact bytes). DESIGN CHOICE in form
(assumptions 4 and 5): safe for one run, since no value of it can be proved; unsafe where two runs are compared, since
equal indices are equal draws. -/
opaque Config.freeByte : Nat → Byte

end Sys2Proof
end

