-- ==== Sys2Proof/Machine/Operands.lean ====
section
/-! DEFINITION. Operand forms: the slice of a sequence (00_scope.md R8), the in-range length of an access
(20_memory.md R33) and the test of a valid address (40_frame_codec.md R65), all on exact naturals (R9). -/

namespace Sys2Proof.Machine

/-- `f[i..j)`: the bytes at indices `i` to `j-1`, empty when `j <= i` (R8). -/
def slice (f : List Byte) (i j : Nat) : List Byte := (f.take j).drop i

/-- `inrange(a, n) = min(n, 64 -sat a)` (R33). -/
def inrange (a n : Nat) : Nat := min n (storeSize - a)

/-- The address check of R65: `a > 63` is invalid. -/
def validAddr (a : Byte) : Bool := a.toNat ≤ storeAddrMax

/-- The condition of `LengthOverflow`: `a + n > 64` on exact naturals (R66, R94). -/
def overflows (a n : Nat) : Bool := a + n > storeSize

/-- The effective length `L` of R66. -/
def clampedLen (a n : Nat) : Nat := if overflows a n then storeSize - a else n

/-- The clamped length as the control frame's length byte; it fits because `L <= 64` (R66). -/
def lengthByte (l : Nat) : Byte := BitVec.ofNat 8 l

end Sys2Proof.Machine
end

