-- ==== Sys2Proof/Syntax.lean ====
section
/-! DEFINITION. The syntax: the phase, the classes of inbound frames (30_encoding.md R61), bus frames (R11), the
instructions (one constructor per row of opcode_table.json), and the requests the agents outside the
peripheral make of the block (00_scope.md R6). -/

namespace Sys2Proof

/-- The state of the Peripheral Protocol State Machine (R16). -/
inductive Phase where
  | awaitingControl
  | awaitingDataCompletion
deriving DecidableEq, Repr

/-- One frame of a bus transaction (R11). -/
inductive BusFrame where
  /-- `W(bytes)`: the controller sends `bytes`. -/
  | w (bytes : List Byte)
  /-- `R(n)`: the controller receives a buffer of `n` bytes. -/
  | r (n : Nat)
deriving DecidableEq, Repr

/-- What the PSM reads from a polled frame: the classes of R61 with the fields R50 gives them. -/
inductive FrameClass where
  | none
  | data (f : List Byte)
  | ctrlShort (f : List Byte)
  | ctrlWrite (a l : Byte)
  | ctrlIdent (l : Byte)
  | ctrlRead (a l : Byte)
  | ctrlRsvd (a d l : Byte)
deriving DecidableEq, Repr

/-- The instructions: one constructor per row of opcode_table.json, in the table's order. -/
inductive Instr where
  /-- P_NONE (R76): an empty polled frame. -/
  | pNone
  /-- P_DATA (R82): the data frame that completes a pending write. -/
  | pData (f : List Byte)
  /-- P_CTRL_SHORT (R77): a control frame of 1 or 2 bytes. -/
  | pCtrlShort (f : List Byte)
  /-- P_CTRL_WRITE (R78): `a` is byte 0, `l` is byte 2. -/
  | pCtrlWrite (a l : Byte)
  /-- P_CTRL_IDENT (R80): `l` is byte 2, which is ignored. -/
  | pCtrlIdent (l : Byte)
  /-- P_CTRL_READ (R79): `a` is byte 0, `l` is byte 2. -/
  | pCtrlRead (a l : Byte)
  /-- P_CTRL_RSVD (R81): `a`, `d`, `l` are bytes 0, 1, 2. -/
  | pCtrlRsvd (a d l : Byte)
  /-- POLL (R74): one poll of the inbound slot. -/
  | poll
  /-- BUS_INBOUND (R83): the transport performs `W(bytes)`. -/
  | busInbound (bytes : List Byte)
  /-- BUS_READ (R84): the transport performs `R(n)`. -/
  | busRead (n : Nat)
  /-- SESSION_OPEN (R101). -/
  | sessionOpen
  /-- SESSION_CLOSE (R101). -/
  | sessionClose
  /-- MEM_READ (R87): `MemRead(a, n)`. -/
  | memRead (a n : Byte)
  /-- MEM_WRITE (R88): `MemWrite(a, bytes)`. -/
  | memWrite (a : Byte) (bytes : List Byte)
  /-- CODEC_VALIDATE (R65). -/
  | codecValidate (a : Byte)
  /-- CODEC_CLAMP (R66): the length is a natural (D19). -/
  | codecClamp (a : Byte) (n : Nat)
  /-- ENC_WRITE (R67): `l` is the clamped length byte, `p` the payload. -/
  | encWrite (a l : Byte) (p : List Byte)
  /-- ENC_READ (R68): `l` is the clamped length byte. -/
  | encRead (a l : Byte)
  /-- ENC_IDENT (R69). -/
  | encIdent
  /-- DEC_READ (R70): `raw` is the filled receive region, `l` the effective length. -/
  | decRead (raw : List Byte) (l : Nat)
  /-- OP_WRITE (R71): `write(a, n, p)`. -/
  | opWrite (a : Byte) (n : Nat) (p : List Byte)
  /-- OP_READ (R72): `read(a, n)`. -/
  | opRead (a : Byte) (n : Nat)
  /-- OP_IDENT (R73): `identity_query()`. -/
  | opIdent
deriving DecidableEq, Repr

/-- The instruction that a class of inbound frame is. -/
def FrameClass.instr : FrameClass → Instr
  | .none => .pNone
  | .data f => .pData f
  | .ctrlShort f => .pCtrlShort f
  | .ctrlWrite a l => .pCtrlWrite a l
  | .ctrlIdent l => .pCtrlIdent l
  | .ctrlRead a l => .pCtrlRead a l
  | .ctrlRsvd a d l => .pCtrlRsvd a d l

/-- A step of an agent that can fall between two frames of a transaction: a poll of the PSM (R74), a frame of
another sender (R83, R104), the host's open and close (R101). -/
inductive Move where
  | poll
  | inbound (bytes : List Byte)
  | hostOpen
  | hostClose
deriving DecidableEq, Repr

/-- What the agents outside the codec do during one controller call: U5 to U7 of 93_implementation_defined.md. -/
structure CallEnv where
  /-- The moves before the first frame, between the frames and after the last one. A gap not listed is
  empty, which is one of the interleavings R114 leaves free. -/
  gaps : List (List Move)
  /-- `some k`: the transport reports failure after the first `k` frames were performed (R115);
  `none`: it reports success. -/
  failAfter : Option Nat
deriving DecidableEq, Repr

/-- A call of the controller-facing operation set (R6, R71 to R73). -/
inductive Call where
  | write (a : Byte) (n : Nat) (p : List Byte)
  | read (a : Byte) (n : Nat)
  | identity
deriving DecidableEq, Repr

/-- The instruction that a controller call is. -/
def Call.instr : Call → Instr
  | .write a n p => .opWrite a n p
  | .read a n => .opRead a n
  | .identity => .opIdent

/-- What an agent asks of the block next. -/
inductive Request where
  /-- A step of the PSM, the transport's delivery of a frame, or the host's open or close. -/
  | move (m : Move)
  /-- The transport performs a frame `R(n)` (R84). -/
  | outbound (n : Nat)
  /-- A controller call, with what the other agents do while it blocks. -/
  | call (c : Call) (e : CallEnv)
deriving DecidableEq, Repr

/-- The instruction that a move is. -/
def Move.instr : Move → Instr
  | .poll => .poll
  | .inbound bytes => .busInbound bytes
  | .hostOpen => .sessionOpen
  | .hostClose => .sessionClose

/-- The instruction that a request is. -/
def Request.instr : Request → Instr
  | .move m => m.instr
  | .outbound n => .busRead n
  | .call c _ => c.instr

end Sys2Proof
end

