-- ==== Sys2Proof/WellFormed.lean ====
section
/-! DEFINITION. Well-formed instructions: the conditions each rule puts on its operands (the "Operands" line of
R65 to R88, and the condition column of opcode_table.json). -/

namespace Sys2Proof

/-- The operands of `i` are those its rule admits, for the instance `c`. -/
def Instr.wellFormed (c : Config) : Instr → Bool
  | .pNone => true
  | .pData f => 1 ≤ f.length && f.length ≤ c.rxCapacity
  | .pCtrlShort f => 1 ≤ f.length && f.length ≤ 2
  | .pCtrlWrite _ _ => true
  | .pCtrlIdent _ => true
  | .pCtrlRead a _ => a != identityAddr
  | .pCtrlRsvd _ d _ => d != dirWrite && d != dirRead
  | .poll => true
  | .busInbound _ => true
  | .busRead _ => true
  | .sessionOpen => true
  | .sessionClose => true
  | .memRead a _ => a != identityAddr
  | .memWrite _ bytes => bytes.length ≤ 255
  | .codecValidate _ => true
  | .codecClamp a _ => Machine.validAddr a
  | .encWrite a l p => Machine.validAddr a && a.toNat + l.toNat ≤ storeSize && l.toNat ≤ p.length
  | .encRead a l => Machine.validAddr a && a.toNat + l.toNat ≤ storeSize
  | .encIdent => true
  | .decRead raw l => l ≤ storeSize && raw.length == l + c.readOffset
  | .opWrite a n p => !Machine.validAddr a || Machine.clampedLen a.toNat n ≤ p.length
  | .opRead _ _ => true
  | .opIdent => true

end Sys2Proof
end

