-- ==== Sys2Proof/Decode.lean ====
section
/-! DEFINITION. The decoder: the classification of an inbound frame by the phase and its bytes (30_encoding.md
R61), the control word of R51 for the match and mask columns of opcode_table.json, and the encoder of the rows
that are frames. Every frame has a class: no frame is illegal (R62), so the decoder rejects none; what the source
leaves undefined is a class of its own (CTRL_SHORT, CTRL_RSVD). -/

namespace Sys2Proof

/-- `classify(phase, f)` of R61, tried in its order. -/
def classify : Phase → List Byte → FrameClass
  | _, [] => .none
  | .awaitingDataCompletion, b :: f => .data (b :: f)
  | .awaitingControl, [a] => .ctrlShort [a]
  | .awaitingControl, [a, d] => .ctrlShort [a, d]
  | .awaitingControl, a :: d :: l :: _ =>
    if d = dirWrite then .ctrlWrite a l
    else if d = dirRead then
      if a = identityAddr then .ctrlIdent l else .ctrlRead a l
    else .ctrlRsvd a d l

/-- The instruction a polled frame is, in the given phase (R61, R74). -/
def decode (ph : Phase) (f : List Byte) : Instr := (classify ph f).instr

/-- The control word `W = f[0] * 2^16 + f[1] * 2^8 + f[2]` (R51). -/
def controlWord (a d l : Byte) : BitVec 24 := a ++ d ++ l

/-- A row of opcode_table.json with a match and a mask over the control word. -/
structure ControlRow where
  mtch : BitVec 24
  mask : BitVec 24
deriving DecidableEq, Repr

/-- The control word falls under the row. -/
def ControlRow.hits (r : ControlRow) (w : BitVec 24) : Bool := w &&& r.mask == r.mtch

/-- The row P_CTRL_WRITE (R78). -/
def rowCtrlWrite : ControlRow := ⟨0x000000, 0x00FF00⟩

/-- The row P_CTRL_IDENT (R80), matched before P_CTRL_READ. -/
def rowCtrlIdent : ControlRow := ⟨0xFF0100, 0xFFFF00⟩

/-- The row P_CTRL_READ (R79). -/
def rowCtrlRead : ControlRow := ⟨0x000100, 0x00FF00⟩

/-- The phase in which a row's frame is classified; P_NONE is the same in both phases (R75). -/
def Instr.framePhase : Instr → Phase
  | .pNone => .awaitingControl
  | .pData _ => .awaitingDataCompletion
  | .pCtrlShort _ => .awaitingControl
  | .pCtrlWrite _ _ => .awaitingControl
  | .pCtrlIdent _ => .awaitingControl
  | .pCtrlRead _ _ => .awaitingControl
  | .pCtrlRsvd _ _ _ => .awaitingControl
  | .poll => .awaitingControl
  | .busInbound _ => .awaitingControl
  | .busRead _ => .awaitingControl
  | .sessionOpen => .awaitingControl
  | .sessionClose => .awaitingControl
  | .memRead _ _ => .awaitingControl
  | .memWrite _ _ => .awaitingControl
  | .codecValidate _ => .awaitingControl
  | .codecClamp _ _ => .awaitingControl
  | .encWrite _ _ _ => .awaitingControl
  | .encRead _ _ => .awaitingControl
  | .encIdent => .awaitingControl
  | .decRead _ _ => .awaitingControl
  | .opWrite _ _ _ => .awaitingControl
  | .opRead _ _ => .awaitingControl
  | .opIdent => .awaitingControl

/-- The frame of a row that is a frame, in bus order, from the encoding column of opcode_table.json and R49, R58,
R67 to R69; `none` for the rows that no frame encodes. -/
def encode : Instr → Option (List Byte)
  | .pNone => some []
  | .pData f => some f
  | .pCtrlShort f => some f
  | .pCtrlWrite a l => some [a, dirWrite, l]
  | .pCtrlIdent l => some [identityAddr, dirRead, l]
  | .pCtrlRead a l => some [a, dirRead, l]
  | .pCtrlRsvd a d l => some [a, d, l]
  | .poll => none
  | .busInbound _ => none
  | .busRead _ => none
  | .sessionOpen => none
  | .sessionClose => none
  | .memRead _ _ => none
  | .memWrite _ _ => none
  | .codecValidate _ => none
  | .codecClamp _ _ => none
  | .encWrite a l _ => some [a, dirWrite, l]
  | .encRead a l => some [a, dirRead, l]
  | .encIdent => some [identityAddr, dirRead, identQueryLen]
  | .decRead _ _ => none
  | .opWrite _ _ _ => none
  | .opRead _ _ => none
  | .opIdent => none

/-- What the PSM reads from the frame of a row: the row itself for the PSM's rows; for the codec's emitted control
frames (ENC_WRITE, ENC_READ, ENC_IDENT), whose words are those of the PSM's rows, the PSM's row. -/
def Instr.received : Instr → Instr
  | .encWrite a l _ => .pCtrlWrite a l
  | .encRead a l => .pCtrlRead a l
  | .encIdent => .pCtrlIdent identQueryLen
  | .pNone => .pNone
  | .pData f => .pData f
  | .pCtrlShort f => .pCtrlShort f
  | .pCtrlWrite a l => .pCtrlWrite a l
  | .pCtrlIdent l => .pCtrlIdent l
  | .pCtrlRead a l => .pCtrlRead a l
  | .pCtrlRsvd a d l => .pCtrlRsvd a d l
  | .poll => .poll
  | .busInbound bytes => .busInbound bytes
  | .busRead n => .busRead n
  | .sessionOpen => .sessionOpen
  | .sessionClose => .sessionClose
  | .memRead a n => .memRead a n
  | .memWrite a bytes => .memWrite a bytes
  | .codecValidate a => .codecValidate a
  | .codecClamp a n => .codecClamp a n
  | .decRead raw l => .decRead raw l
  | .opWrite a n p => .opWrite a n p
  | .opRead a n => .opRead a n
  | .opIdent => .opIdent

/-- The frame of `k` bytes whose bits are `w`, the first bus byte the most significant, as R51 packs a control
frame. -/
def frameOfWord : Nat → Nat → List Byte
  | 0, _ => []
  | k + 1, w => BitVec.ofNat 8 (w / 256 ^ k) :: frameOfWord k w

/-- The instruction read, in `AwaitingControl`, from a frame of `nbits` bits `w`, numbered as opcode_table.json
numbers them (the control word of R51); `none` where `nbits` is no whole number of bytes. DEDUCED, safe (assumption
11): the first bus byte is the most significant, and the codec's rows, whose words are the PSM's, are read as the
PSM's. -/
def decodeTableWord (nbits w : Nat) : Option Instr :=
  if nbits % 8 = 0 then some (decode .awaitingControl (frameOfWord (nbits / 8) w)) else none

end Sys2Proof
end

