-- ==== Sys2Proof/Machine/State.lean ====
section
/-! DEFINITION. The state: the block's tuple of 10_state.md R15, the codec's outputs of R25, and the model's own
fields (the instance's parameters, the values returned on ports, the counter of free draws, what the other agents
do next). Plain data. -/

namespace Sys2Proof.Machine

/-- The register file: 64 cells of one byte (R20, R89). DESIGN CHOICE, safe (assumption 2): the 64 data registers are
held as a vector, and the block has no other memory (R27, R31). -/
abbrev Store := Vector Byte 64

/-- Why the machine would stop with a fault. There is no constructor: "The peripheral state machine never fails
outwardly" (R95), the codec's errors are the status of the call that met them (R91, R97), and
93_implementation_defined.md treats no behaviour as a fault. -/
inductive Fault where
deriving DecidableEq, Repr

/-- Why an instruction is refused. -/
inductive Refusal where
  /-- Raised by no meaning; an arm of `exec` for an instruction without a meaning would raise it. Safe: the model
  stops where the hardware goes on. -/
  | notModelled (mnemonic : String)
  /-- Raised by ENC_WRITE and OP_WRITE for a payload of fewer than `L` bytes: "outside the operation's contract and
  a model refuses it" (R67, D14, X1). Safe: the model stops. -/
  | payloadTooShort
  /-- Raised by DEC_READ for a buffer whose size is not `L + READ_OFFSET`: "outside the contract; a model refuses it"
  (R70, D34, X2). Safe: the model stops. -/
  | rawSizeMismatch
deriving DecidableEq, Repr

/-- The status of a controller call, with the value R91 records for it. -/
inductive Status where
  | ok
  | invalidAddress (a : Byte)
  | transportFailure
deriving DecidableEq, Repr

/-- What `LengthOverflow` records: the requested and the effective length (R91, R94). -/
structure Overflow where
  requested : Nat
  effective : Nat
deriving DecidableEq, Repr

/-- The outputs of one controller call (R25, D2). -/
structure CodecOut where
  /-- `status`; `none` while no call has ended with one. -/
  status : Option Status
  /-- `warn_overflow` with its recorded values: asserted when it is `some` (R94). -/
  warn : Option Overflow
  /-- `eff_len`; `none` where the call computed no effective length. -/
  effLen : Option Nat
  /-- The transaction handed to the transport; empty where none was emitted (R92). -/
  txn : List BusFrame
  /-- `data_out`; `none` where the call gives no data (R92, R93). -/
  dataOut : Option (List Byte)
deriving DecidableEq, Repr

/-- No output: before a call, or after reset ("none: the codec has no state", R107). -/
def CodecOut.blank : CodecOut where
  status := none
  warn := none
  effLen := none
  txn := []
  dataOut := none

/-- The state of the machine. -/
structure State where
  /-- `phase` (R16). -/
  phase : Phase
  /-- `pend_addr` (R17). -/
  pendAddr : Byte
  /-- `pend_len` (R18). -/
  pendLen : Byte
  /-- `store[0..63]` (R20). -/
  store : Store
  /-- `rx_valid` (R22). -/
  rxValid : Bool
  /-- `rx_data` (R22). -/
  rxData : List Byte
  /-- `tx_data` (R23). -/
  txData : List Byte
  /-- `session_open` (R24). -/
  sessionOpen : Bool
  /-- The outputs of the controller call (R25). DESIGN CHOICE, safe (assumption 8): kept until the next call. -/
  codec : CodecOut
  /-- The controller's receive region of the last `R` frame (R31, R84, D2: `raw` back). -/
  raw : List Byte
  /-- MODEL: the sequence the last MEM_READ returned (R87, R89: the read datum of the port; assumption 9). -/
  memOut : List Byte
  /-- MODEL: the parameters of this instance, an argument of the model that nothing writes (R5, R15;
  assumption 1). -/
  config : Config
  /-- MODEL: the index of the next free draw of `Config.freeByte` (assumption 5). -/
  draws : Nat
  /-- MODEL: what the other agents do during the next controller call (U5 to U7; assumption 7). -/
  env : CallEnv
  /-- MODEL: what the agents ask of the block next, in order; when it is empty the PSM polls (R85;
  assumption 3). -/
  agenda : List Request
deriving DecidableEq, Repr

/-- The number of free draws one reset takes: 64 cells, `pend_addr` and `pend_len` (U1, U2). -/
abbrev resetDraws : Nat := 66

/-- `INIT_STORE`, drawn at each reset: the 64 draws from index `k` (R5, R20, D10, U1). -/
def initStore (k : Nat) : Store := Vector.ofFn fun i => Config.freeByte (k + i.val)

/-- The machine at power-on (R107): the reset of every state element with the draws 0 to 65, the session closed,
no codec output, nothing asked of the block. The cells and the pending registers hold free draws (assumption 4); the
model's own fields hold the values of assumption 18. -/
def State.reset : State where
  phase := .awaitingControl
  pendAddr := Config.freeByte 64
  pendLen := Config.freeByte 65
  store := initStore 0
  rxValid := false
  rxData := []
  txData := []
  sessionOpen := false
  codec := CodecOut.blank
  raw := []
  memOut := []
  config := Config.chip
  draws := resetDraws
  env := ⟨[], none⟩
  agenda := []

end Sys2Proof.Machine
end

