-- ==== Sys2Proof/Machine/Flags.lean ====
section
/-! DEFINITION. Flags and codes. The block has no arithmetic condition codes (10_state.md R28): its flags are
`phase`, `rx_valid`, `session_open` and the codec's `warn_overflow`. -/

namespace Sys2Proof.Machine

/-- The bit encoding of `phase` (R16, D26). -/
def phaseCode : Phase → BitVec 1
  | .awaitingControl => 0
  | .awaitingDataCompletion => 1

/-- The 2-bit code of a status (R91, D15); 3 is never produced. -/
def statusCode : Status → BitVec 2
  | .ok => 0
  | .invalidAddress _ => 1
  | .transportFailure => 2

/-- The output bit `warn_overflow` (R25, R94). -/
def warnOverflow (o : CodecOut) : Bool := o.warn.isSome

/-- The warning `LengthOverflow(n, L)` of an access at `a` of length `n`, when it is clamped (R66). -/
def overflowWarning (a n : Nat) : Option Overflow :=
  if overflows a n then some ⟨n, clampedLen a n⟩ else none

/-- The outputs of a call that ended with `InvalidAddress(a)`: no warning, no transaction, no data (R65, R92). -/
def invalidAddressOut (a : Byte) : CodecOut :=
  { CodecOut.blank with status := some (.invalidAddress a) }

/-- `warn_overflow` and `eff_len` as CODEC_CLAMP writes them (R66). -/
def clampFlags (a n : Nat) (o : CodecOut) : CodecOut :=
  { o with warn := overflowWarning a n, effLen := some (clampedLen a n) }

/-- `eff_len <- 1`, `warn_overflow <- 0`: the flags of the identity query's encoder (R69). -/
def identFlags (o : CodecOut) : CodecOut := { o with warn := none, effLen := some 1 }

end Sys2Proof.Machine
end

