-- ==== Sys2Proof/Machine/Ops.lean ====
section
/-! DEFINITION. The named operations every meaning is written over: the register-file port and its two primitives,
the PSM's actions and its poll, the transport's two actions, the reset and the session, and the codec's encoders,
decoder and transaction. The block has no trap entry and no trap return (60_exceptions.md R97, R98): an error ends
the controller call that raised it, as `invalidAddressOut`, `finishWrite` and `finishRead` say. -/

namespace Sys2Proof.Machine

/-! ### The register file (42_register_store.md) -/

/-- One read access of the port, cell `i` (R89). `memRead` drives no index above 63. -/
def readCell (st : Store) (i : Nat) : Byte := st[i]?.getD 0

/-- One write access of the port, cell `i` (R89). `memWrite` drives no index above 63. -/
def writeCell (st : Store) (i : Nat) (v : Byte) : Store := st.setIfInBounds i v

/-- The bytes stored in ascending index order from cell `a` (R35, R89). -/
def writeCells (st : Store) (a : Nat) : List Byte → Store
  | [] => st
  | v :: vs => writeCells (writeCell st a v) (a + 1) vs

/-- `MemRead(a, n)` (R87): the `inrange(a, n)` cells from `a`. -/
def memRead (st : Store) (a n : Nat) : List Byte :=
  (List.range (inrange a n)).map fun i => readCell st (a + i)

/-- `MemWrite(a, bytes)` (R88): the first `inrange(a, |bytes|)` bytes, the rest dropped. -/
def memWrite (st : Store) (a : Nat) (bytes : List Byte) : Store :=
  writeCells st a (bytes.take (inrange a bytes.length))

/-! ### The Peripheral Protocol State Machine (41_protocol_fsm.md) -/

/-- The action of a write control frame (R78): the pending write is retained, no reply is staged. -/
def ctrlWrite (a l : Byte) (s : State) : State :=
  { s with pendAddr := a, pendLen := l, phase := .awaitingDataCompletion }

/-- The action of a read control frame (R79): the reply replaces `tx_data`. -/
def ctrlRead (a l : Byte) (s : State) : State :=
  { s with txData := memRead s.store a.toNat l.toNat }

/-- The action of an identity read (R80): one byte, the register file is not read. -/
def ctrlIdent (s : State) : State := { s with txData := [s.config.periphAddr] }

/-- The action of a control frame with a reserved direction, by `RESERVED_DIR_POLICY` (R81). -/
def ctrlRsvd (a l : Byte) (s : State) : State :=
  match s.config.reservedDirPolicy with
  | .ignore => s
  | .asWrite => ctrlWrite a l s
  | .asRead => if a = identityAddr then ctrlIdent s else ctrlRead a l s

/-- The bytes of a data frame that go to `MemWrite`: `f[0..min(pend_len, |f|))` (R82). -/
def dataBytes (s : State) (f : List Byte) : List Byte :=
  slice f 0 (min s.pendLen.toNat f.length)

/-- The action of a write data frame (R82). -/
def dataPhase (f : List Byte) (s : State) : State :=
  { s with
    store := memWrite s.store s.pendAddr.toNat (dataBytes s f)
    phase := .awaitingControl }

/-- The action of each class of inbound frame (R74). -/
def frameAction : FrameClass → State → State
  | .none, s => s
  | .data f, s => dataPhase f s
  | .ctrlShort _, s => s
  | .ctrlWrite a l, s => ctrlWrite a l s
  | .ctrlIdent _, s => ctrlIdent s
  | .ctrlRead a l, s => ctrlRead a l s
  | .ctrlRsvd a _ l, s => ctrlRsvd a l s

/-- The state in which a polled frame acts: the poll has consumed it (R74); `rx_data` keeps its bytes (DEDUCED, safe:
assumption 19). -/
def consumed (s : State) : State := { s with rxValid := false }

/-- A poll has a frame to process: the session is open and the slot holds one (R24, R74). -/
def pollReady (s : State) : Bool := s.sessionOpen && s.rxValid

/-- One poll (R74): nothing while the slot is empty, and nothing while the session is closed (DEDUCED from R24,
safe: assumption 10). -/
def pollSlot (s : State) : State :=
  if pollReady s then frameAction (classify s.phase s.rxData) (consumed s) else s

/-! ### The transport's actions (41_protocol_fsm.md R83, R84) -/

/-- Delivery of an inbound frame (R83): a closed session delivers nothing. -/
def deliver (bytes : List Byte) (s : State) : State :=
  if s.sessionOpen then
    { s with rxData := bytes.take s.config.rxCapacity, rxValid := true }
  else s

/-- Byte `j` of what an `R` frame receives (R84): an artifact before `READ_OFFSET`, the staged reply, and any byte
past it; with the session closed every byte is a draw (U5; DEDUCED, safe: assumption 6). The draw is the one of
index `k + j`. -/
def outboundByte (s : State) (k j : Nat) : Byte :=
  if s.sessionOpen && s.config.readOffset ≤ j && j - s.config.readOffset < s.txData.length then
    s.txData.getD (j - s.config.readOffset) 0
  else Config.freeByte (k + j)

/-- The `n` bytes an `R(n)` frame receives (R84). -/
def outboundBytes (s : State) (n : Nat) : List Byte :=
  (List.range n).map (outboundByte s s.draws)

/-- The transport performs `R(n)` (R84): the receive region is filled, each position with a draw of its own; the
block's state does not change. -/
def outbound (n : Nat) (s : State) : State :=
  { s with raw := outboundBytes s n, draws := s.draws + n }

/-! ### Reset and session (70_reset_and_hazards.md R107, 60_exceptions.md R101) -/

/-- The reset of every state element of the block (R107), with fresh draws (U1, U2). -/
def applyReset (s : State) : State :=
  { s with
    phase := .awaitingControl
    pendAddr := Config.freeByte (s.draws + 64)
    pendLen := Config.freeByte (s.draws + 65)
    store := initStore s.draws
    rxValid := false
    rxData := []
    txData := []
    sessionOpen := false
    draws := s.draws + resetDraws }

/-- The host's `open`: the reset, then `session_open <- 1` (R101). -/
def openSession (s : State) : State := { applyReset s with sessionOpen := true }

/-- The host's `close`: `session_open <- 0` (R101); the rest stays until the next `open` overwrites it (DEDUCED, safe:
assumption 13). -/
def closeSession (s : State) : State := { s with sessionOpen := false }

/-! ### Other agents' moves, and a transaction (20_memory.md R41, R42) -/

/-- A move of an agent other than the codec. -/
def applyMove : Move → State → State
  | .poll, s => pollSlot s
  | .inbound bytes, s => deliver bytes s
  | .hostOpen, s => openSession s
  | .hostClose, s => closeSession s

/-- The moves of one gap, in order. -/
def applyMoves : List Move → State → State
  | [], s => s
  | m :: ms, s => applyMoves ms (applyMove m s)

/-- The transport performs one frame of a transaction (R83, R84). -/
def performFrame : BusFrame → State → State
  | .w bytes, s => deliver bytes s
  | .r n, s => outbound n s

/-- The frames in their listed order, each after the moves of its gap, and the moves of the gap after the last
one (R41, U7). -/
def performFrames : List BusFrame → List (List Move) → State → State
  | [], gaps, s => applyMoves (gaps.headD []) s
  | f :: fs, gaps, s =>
    performFrames fs gaps.tail (performFrame f (applyMoves (gaps.headD []) s))

/-- The frames of a transaction that were performed: all of them when the transport reports success, a prefix when
it reports failure (R115, U6; assumption 14). -/
def performedFrames (e : CallEnv) (t : List BusFrame) : List BusFrame :=
  match e.failAfter with
  | none => t
  | some k => t.take k

/-- `emit T` (R10): the transaction is handed to the transport, which performs it. -/
def emit (t : List BusFrame) (s : State) : State :=
  performFrames (performedFrames s.env t) s.env.gaps { s with codec := { s.codec with txn := t } }

/-- The transport reports failure of the transaction (R93). -/
def transportFails (s : State) : Bool := s.env.failAfter.isSome

/-! ### The codec's encoders, decoder and call (40_frame_codec.md) -/

/-- The transaction of `encode_write` for a payload of at least `L` bytes (R60, R67). -/
def writeTxn (a l : Byte) (p : List Byte) : List BusFrame :=
  [.w [a, dirWrite, l], .w (slice p 0 l.toNat)]

/-- The transaction of `encode_read` (R60, R68). -/
def readTxn (c : Config) (a l : Byte) : List BusFrame :=
  [.w [a, dirRead, l], .r (l.toNat + c.readOffset)]

/-- The transaction of `encode_identity_query` (R60, R69). -/
def identTxn (c : Config) : List BusFrame :=
  [.w [identityAddr, dirRead, identQueryLen], .r (1 + c.readOffset)]

/-- `decode_read`: `raw[READ_OFFSET .. READ_OFFSET + L)` (R70). -/
def decodeRead (c : Config) (raw : List Byte) (l : Nat) : List Byte :=
  slice raw c.readOffset (c.readOffset + l)

/-- A call starts afresh: no output of an earlier call is visible to it (R25, R97). -/
def startCall (s : State) : State := { s with codec := CodecOut.blank }

/-- A call's flags from its clamped length (R66). -/
def clampCall (a : Byte) (n : Nat) (s : State) : State :=
  { s with codec := clampFlags a.toNat n s.codec }

/-- The end of a write call: `OK`, or `TransportFailure` (R71, R93). -/
def finishWrite (failed : Bool) (s : State) : State :=
  if failed then { s with codec := { s.codec with status := some .transportFailure } }
  else { s with codec := { s.codec with status := some .ok } }

/-- The end of a read or identity call of effective length `l`: `OK` with the decoded data, or `TransportFailure`
with none (R72, R73, R93). -/
def finishRead (failed : Bool) (l : Nat) (s : State) : State :=
  if failed then { s with codec := { s.codec with status := some .transportFailure } }
  else
    { s with
      codec := { s.codec with status := some .ok, dataOut := some (decodeRead s.config s.raw l) } }

end Sys2Proof.Machine
end

