-- ==== Sys2Proof/Machine/Codec.lean ====
section
/-! DEFINITION. The meanings of the codec's internal steps (40_frame_codec.md R65 to R70), each over the codec's
outputs. -/

namespace Sys2Proof.Machine

/-- CODEC_VALIDATE (R65): an address above 63 ends the call with `InvalidAddress`; a valid one writes nothing. -/
def execCodecValidate (a : Byte) (s : State) : Host.Outcome State Fault Refusal :=
  .next (if validAddr a then s else { s with codec := invalidAddressOut a })

/-- CODEC_CLAMP (R66). -/
def execCodecClamp (a : Byte) (n : Nat) (s : State) : Host.Outcome State Fault Refusal :=
  .next (clampCall a n s)

/-- ENC_WRITE (R67): refused where the payload has fewer than `L` bytes (X1). -/
def execEncWrite (a l : Byte) (p : List Byte) (s : State) : Host.Outcome State Fault Refusal :=
  if l.toNat ≤ p.length then .next { s with codec := { s.codec with txn := writeTxn a l p } }
  else .refused .payloadTooShort

/-- ENC_READ (R68). -/
def execEncRead (a l : Byte) (s : State) : Host.Outcome State Fault Refusal :=
  .next { s with codec := { s.codec with txn := readTxn s.config a l } }

/-- ENC_IDENT (R69). -/
def execEncIdent (s : State) : Host.Outcome State Fault Refusal :=
  .next { s with codec := { identFlags s.codec with txn := identTxn s.config } }

/-- DEC_READ (R70): refused where the buffer's size is not `L + READ_OFFSET` (X2). -/
def execDecRead (raw : List Byte) (l : Nat) (s : State) : Host.Outcome State Fault Refusal :=
  if raw.length = l + s.config.readOffset then
    .next { s with codec := { s.codec with dataOut := some (decodeRead s.config raw l) } }
  else .refused .rawSizeMismatch

end Sys2Proof.Machine
end

