-- ==== Sys2Proof/Machine/Operation.lean ====
section
/-! DEFINITION. The meanings of the controller-facing operations (40_frame_codec.md R71 to R73). One call is one step
(00_scope.md R14): what the transport, the PSM and the host do while it blocks stands in `State.env` (DESIGN
CHOICE, safe: assumption 7). -/

namespace Sys2Proof.Machine

/-- OP_WRITE (R71): validation before the length is looked at (R96); then refused where the payload has fewer than `L`
bytes (X1; DEDUCED order, safe: assumption 15). -/
def execOpWrite (a : Byte) (n : Nat) (p : List Byte) (s : State) : Host.Outcome State Fault Refusal :=
  if validAddr a then
    if clampedLen a.toNat n ≤ p.length then
      .next (finishWrite (transportFails s)
        (emit (writeTxn a (lengthByte (clampedLen a.toNat n)) p) (clampCall a n (startCall s))))
    else .refused .payloadTooShort
  else .next { s with codec := invalidAddressOut a }

/-- OP_READ (R72). -/
def execOpRead (a : Byte) (n : Nat) (s : State) : Host.Outcome State Fault Refusal :=
  if validAddr a then
    .next (finishRead (transportFails s) (clampedLen a.toNat n)
      (emit (readTxn s.config a (lengthByte (clampedLen a.toNat n))) (clampCall a n (startCall s))))
  else .next { s with codec := invalidAddressOut a }

/-- OP_IDENT (R73): the address is not validated (R69). -/
def execOpIdent (s : State) : Host.Outcome State Fault Refusal :=
  .next (finishRead (transportFails s) 1
    (emit (identTxn s.config) { s with codec := identFlags CodecOut.blank }))

end Sys2Proof.Machine
end

