-- ==== Sys2Proof/Machine/Psm.lean ====
section
/-! DEFINITION. The meanings of the PSM's rows (41_protocol_fsm.md): the seven classes of a polled frame and the
poll itself. None faults and none refuses (R95). The condition column of a class (its phase, its bytes) is what
`classify` tests; the poll consumes the slot (R74), so the class meanings write only what their rule names (DESIGN
CHOICE, safe: assumption 9). -/

namespace Sys2Proof.Machine

/-- P_NONE (R76): nothing. -/
def execPNone (s : State) : Host.Outcome State Fault Refusal := .next s

/-- P_DATA (R82). -/
def execPData (f : List Byte) (s : State) : Host.Outcome State Fault Refusal := .next (dataPhase f s)

/-- P_CTRL_SHORT (R77): nothing. -/
def execPCtrlShort (_f : List Byte) (s : State) : Host.Outcome State Fault Refusal := .next s

/-- P_CTRL_WRITE (R78). -/
def execPCtrlWrite (a l : Byte) (s : State) : Host.Outcome State Fault Refusal := .next (ctrlWrite a l s)

/-- P_CTRL_IDENT (R80): the length byte is ignored. -/
def execPCtrlIdent (_l : Byte) (s : State) : Host.Outcome State Fault Refusal := .next (ctrlIdent s)

/-- P_CTRL_READ (R79). -/
def execPCtrlRead (a l : Byte) (s : State) : Host.Outcome State Fault Refusal := .next (ctrlRead a l s)

/-- P_CTRL_RSVD (R81): by `RESERVED_DIR_POLICY`, whatever the reserved direction. -/
def execPCtrlRsvd (a _d l : Byte) (s : State) : Host.Outcome State Fault Refusal := .next (ctrlRsvd a l s)

/-- POLL (R74): the frame of the slot is consumed and its class acts; nothing while the slot is empty or the session
is closed (R24). -/
def execPoll (s : State) : Host.Outcome State Fault Refusal := .next (pollSlot s)

end Sys2Proof.Machine
end

