-- ==== Sys2Proof/Machine/RegisterFile.lean ====
section
/-! DEFINITION. The meanings of the register-file primitives (42_register_store.md R87, R88), as steps of their own:
inside the block MEM_READ runs within P_CTRL_READ and MEM_WRITE within P_DATA. -/

namespace Sys2Proof.Machine

/-- MEM_READ (R87): no state of the block changes; the sequence is on the port. -/
def execMemRead (a n : Byte) (s : State) : Host.Outcome State Fault Refusal :=
  .next { s with memOut := memRead s.store a.toNat n.toNat }

/-- MEM_WRITE (R88). -/
def execMemWrite (a : Byte) (bytes : List Byte) (s : State) : Host.Outcome State Fault Refusal :=
  .next { s with store := memWrite s.store a.toNat bytes }

end Sys2Proof.Machine
end

