-- ==== Sys2Proof/Machine/Session.lean ====
section
/-! DEFINITION. The meanings of the host's session rows (60_exceptions.md R101). -/

namespace Sys2Proof.Machine

/-- SESSION_OPEN (R101, R107). -/
def execSessionOpen (s : State) : Host.Outcome State Fault Refusal := .next (openSession s)

/-- SESSION_CLOSE (R101). -/
def execSessionClose (s : State) : Host.Outcome State Fault Refusal := .next (closeSession s)

end Sys2Proof.Machine
end

