-- ==== Sys2Proof/Machine/Transport.lean ====
section
/-! DEFINITION. The meanings of the transport's rows (41_protocol_fsm.md R83, R84). -/

namespace Sys2Proof.Machine

/-- BUS_INBOUND (R83): with the session closed nothing is delivered. -/
def execBusInbound (bytes : List Byte) (s : State) : Host.Outcome State Fault Refusal := .next (deliver bytes s)

/-- BUS_READ (R84). -/
def execBusRead (n : Nat) (s : State) : Host.Outcome State Fault Refusal := .next (outbound n s)

end Sys2Proof.Machine
end

