-- ==== Sys2Proof/Machine/Dispatch.lean ====
section
/-! DEFINITION. The meaning of every instruction: one arm per row of opcode_table.json. -/

namespace Sys2Proof.Machine

def exec (i : Instr) (s : State) : Host.Outcome State Fault Refusal :=
  match i with
  | .pNone => Sys2Proof.Machine.execPNone s
  | .pData f => Sys2Proof.Machine.execPData f s
  | .pCtrlShort f => Sys2Proof.Machine.execPCtrlShort f s
  | .pCtrlWrite a l => Sys2Proof.Machine.execPCtrlWrite a l s
  | .pCtrlIdent l => Sys2Proof.Machine.execPCtrlIdent l s
  | .pCtrlRead a l => Sys2Proof.Machine.execPCtrlRead a l s
  | .pCtrlRsvd a d l => Sys2Proof.Machine.execPCtrlRsvd a d l s
  | .poll => Sys2Proof.Machine.execPoll s
  | .busInbound bytes => Sys2Proof.Machine.execBusInbound bytes s
  | .busRead n => Sys2Proof.Machine.execBusRead n s
  | .sessionOpen => Sys2Proof.Machine.execSessionOpen s
  | .sessionClose => Sys2Proof.Machine.execSessionClose s
  | .memRead a n => Sys2Proof.Machine.execMemRead a n s
  | .memWrite a bytes => Sys2Proof.Machine.execMemWrite a bytes s
  | .codecValidate a => Sys2Proof.Machine.execCodecValidate a s
  | .codecClamp a n => Sys2Proof.Machine.execCodecClamp a n s
  | .encWrite a l p => Sys2Proof.Machine.execEncWrite a l p s
  | .encRead a l => Sys2Proof.Machine.execEncRead a l s
  | .encIdent => Sys2Proof.Machine.execEncIdent s
  | .decRead raw l => Sys2Proof.Machine.execDecRead raw l s
  | .opWrite a n p => Sys2Proof.Machine.execOpWrite a n p s
  | .opRead a n => Sys2Proof.Machine.execOpRead a n s
  | .opIdent => Sys2Proof.Machine.execOpIdent s

end Sys2Proof.Machine
end

