-- ==== Sys2Proof/Machine/Schedule.lean ====
section
/-! DEFINITION. What a step runs next. The block has no program counter and fetches no instruction (10_state.md R26,
20_memory.md R45): the next request of the agenda, or, with none, a poll of the PSM (41_protocol_fsm.md R85,
70_reset_and_hazards.md R108). DESIGN CHOICE, safe (assumption 3). -/

namespace Sys2Proof.Machine

/-- The instruction the next step runs. -/
def nextInstr (s : State) : Instr :=
  match s.agenda with
  | [] => .poll
  | r :: _ => r.instr

/-- The state it runs in: the request is taken from the agenda, and a call's environment becomes the current
one. -/
def takeRequest (s : State) : State :=
  match s.agenda with
  | [] => s
  | .move _ :: rest => { s with agenda := rest }
  | .outbound _ :: rest => { s with agenda := rest }
  | .call _ e :: rest => { s with agenda := rest, env := e }

/-- A frame of `nbits` bits `w` waits in the inbound slot of an open session in `AwaitingControl`, and the next step
is a poll: what opening the session and delivering the frame from outside would leave (assumption 3). -/
def placeFrameWord (s : State) (nbits w : Nat) : State :=
  { s with
    agenda := []
    sessionOpen := true
    phase := .awaitingControl
    rxValid := true
    rxData := frameOfWord (nbits / 8) w }

end Sys2Proof.Machine
end

