-- ==== Sys2Proof/Machine/Step.lean ====
section
/-! DEFINITION. One step of the machine: one step of one agent (00_scope.md R14). -/

namespace Sys2Proof.Machine

/-- One step: the next request of the agenda, or a poll. -/
def step (s : State) : Host.Outcome State Fault Refusal := exec (nextInstr s) (takeRequest s)

/-- `s` with the frame of `nbits` bits `w` where the next step, a poll, reads its frame. -/
def State.withFetchWord (s : State) (nbits w : Nat) : State := placeFrameWord s nbits w

end Sys2Proof.Machine
end

