-- ==== Sys2Proof/Safety.lean ====
section
/-! DEFINITION. The terms claims use: the bounds of the block's buffers (41_protocol_fsm.md R86, 10_state.md R22), the
consistency of a call's outputs (60_exceptions.md R92, R93, R96), where the register file may change (R86), and the
named scheduling assumptions of 00_scope.md R5 (`SERVICED_BEFORE_READ`, `POLLED_BEFORE_NEXT_FRAME`) over a run and over
one call, off unless a claim takes them (assumption 12). -/

namespace Sys2Proof.Machine

/-- The buffers keep their bounds: the staged reply has at most 64 bytes (R86), the inbound frame at most
`RX_CAPACITY` (R22). -/
abbrev BuffersBounded (s : State) : Prop :=
  s.txData.length ≤ storeSize ∧ s.rxData.length ≤ s.config.rxCapacity

/-- The outputs of a controller call agree with one another: an invalid address comes with no warning, no effective
length, no transaction and no data (R92, R96); a transport failure comes with no data (R93); data come only with
`OK`, and are as many as the effective length (R25); the effective length is at most 64 (R25). -/
def OutputsAgree (o : CodecOut) : Prop :=
  (∀ a, o.status = some (.invalidAddress a) → o = invalidAddressOut a ∧ validAddr a = false) ∧
  (o.status = some .transportFailure → o.dataOut = none) ∧
  (∀ d, o.dataOut = some d → o.status = some .ok ∧ o.effLen = some d.length) ∧
  (∀ l, o.effLen = some l → l ≤ storeSize)

/-- The invariant of the machine. -/
def Inv (s : State) : Prop := BuffersBounded s ∧ OutputsAgree s.codec

/-- The moves of gap `i` of a call. -/
def gapAt (e : CallEnv) (i : Nat) : List Move := e.gaps.getD i []

/-- Only the PSM moves in the gap: no frame of another sender, no open, no close. -/
abbrev OnlyPolls (g : List Move) : Prop := ∀ m ∈ g, m = .poll

/-- The PSM polls in the gap, and nothing else moves. -/
abbrev Polled (g : List Move) : Prop := OnlyPolls g ∧ Move.poll ∈ g

/-- No agent but the PSM moves in the gaps of a transaction of two frames: "no frame from another controller in
between" (95_test_vectors.md V7), no open and no close. No part of the two named assumptions below. -/
abbrev Undisturbed (e : CallEnv) : Prop :=
  OnlyPolls (gapAt e 0) ∧ OnlyPolls (gapAt e 1) ∧ OnlyPolls (gapAt e 2)

/-- `k` steps, stopping where a step answers no next state. -/
def stepN : Nat → State → Host.Outcome State Fault Refusal
  | 0, s => .next s
  | k + 1, s =>
    match step s with
    | .next t => stepN k t
    | .fault r => .fault r
    | .refused r => .refused r

/-- The transaction a call hands to the transport (R71 to R73); `none` where the call ends before it (R92). -/
def callTxn (c : Config) : Call → Option (List BusFrame)
  | .write a n p =>
    if validAddr a then some (writeTxn a (lengthByte (clampedLen a.toNat n)) p) else none
  | .read a n => if validAddr a then some (readTxn c a (lengthByte (clampedLen a.toNat n))) else none
  | .identity => some (identTxn c)

/-! ### Where the register file may change (R20, R86 (5), R107) -/

/-- The move, made in the state, is the poll of a DATA frame (R61, R82) or the reset of an open (R107). -/
def moveStores : Move → State → Bool
  | .poll, s => pollReady s && s.phase == .awaitingDataCompletion && s.rxData != []
  | .hostOpen, _ => true
  | .inbound _, _ | .hostClose, _ => false

/-- One of the moves is such a one, in the state in which it is made. -/
def movesStore : List Move → State → Bool
  | [], _ => false
  | m :: ms, s => moveStores m s || movesStore ms (applyMove m s)

/-- `movesStore` for the gaps of a transaction, in the order `performFrames` gives. -/
def framesStore : List BusFrame → List (List Move) → State → Bool
  | [], gaps, s => movesStore (gaps.headD []) s
  | f :: fs, gaps, s =>
    movesStore (gaps.headD []) s || framesStore fs gaps.tail (performFrame f (applyMoves (gaps.headD []) s))

/-- During the call, made in `s` with the environment that stands there, the PSM polls a DATA frame or the host opens
the session. -/
def callStores (c : Call) (s : State) : Bool :=
  match callTxn s.config c with
  | none => false
  | some t => framesStore (performedFrames s.env t) s.env.gaps s

/-! ### `POLLED_BEFORE_NEXT_FRAME` and `SERVICED_BEFORE_READ` (R5, R113, R114, D24, D25) -/

/-- No frame that has arrived waits unpolled, so a frame may arrive. A closed session receives no frame (R83), and a
frame that the reset of an open has dropped waits no more (assumption 12). -/
def mayArrive (s : State) : Bool := !pollReady s

/-- If the move is the arrival of a frame, every earlier one has been polled. -/
def movePolled : Move → State → Bool
  | .inbound _, s => mayArrive s
  | .poll, _ | .hostOpen, _ | .hostClose, _ => true

/-- Every frame that arrives during the moves does so after every earlier one has been polled. -/
def movesPolled : List Move → State → Bool
  | [], _ => true
  | m :: ms, s => movePolled m s && movesPolled ms (applyMove m s)

/-- A `W` frame is performed after every earlier frame has been polled. -/
def framePolled : BusFrame → State → Bool
  | .w _, s => mayArrive s
  | .r _, _ => true

/-- `movesPolled` for the frames of a transaction and the moves of its gaps, in the order `performFrames` gives. -/
def framesPolled : List BusFrame → List (List Move) → State → Bool
  | [], gaps, s => movesPolled (gaps.headD []) s
  | f :: fs, gaps, s =>
    movesPolled (gaps.headD []) s && framePolled f (applyMoves (gaps.headD []) s) &&
      framesPolled fs gaps.tail (performFrame f (applyMoves (gaps.headD []) s))

/-- Every frame that arrives while the request is served, its own and every other sender's, arrives after every
earlier one has been polled. -/
def requestPolled : Request → State → Bool
  | .move m, s => movePolled m s
  | .outbound _, _ => true
  | .call c e, s =>
    match callTxn s.config c with
    | none => true
    | some t => framesPolled (performedFrames e t) e.gaps s

/-- The PSM polls the control frame of a performed `W`, `R` pair before the `R` frame: the frame reaches an open
session, and the first move after it is a poll. Any other first move replaces the frame, drops it or stops the PSM
(R83, R101). -/
def framesServiced : List BusFrame → List (List Move) → State → Bool
  | .w _ :: .r _ :: _, gaps, s =>
    (applyMoves (gaps.headD []) s).sessionOpen && (gaps.tail.headD []).head? == some .poll
  | _, _, _ => true

/-- If the request is a call whose transaction has an `R` frame and it is performed, its control frame is polled
before. -/
def requestServiced : Request → State → Bool
  | .move _, _ => true
  | .outbound _, _ => true
  | .call c e, s =>
    match callTxn s.config c with
    | none => true
    | some t => framesServiced (performedFrames e t) e.gaps s

/-- The check holds of every request that the next `k` steps take, in the state in which it is served. A step with
nothing asked is a poll, in which no frame arrives. -/
def alongRun (check : Request → State → Bool) : Nat → State → Bool
  | 0, _ => true
  | k + 1, s =>
    (match s.agenda with
      | [] => true
      | r :: _ => check r (takeRequest s)) &&
    match step s with
    | .next t => alongRun check k t
    | .fault _ => true
    | .refused _ => true

/-- `POLLED_BEFORE_NEXT_FRAME` (R113, D25) for the next `k` steps: every inbound frame is polled before the next one
arrives, be it in the gap after it, in a step between two calls or in the first gap of the next call. -/
abbrev PolledBeforeNextFrame (k : Nat) (s : State) : Prop := alongRun requestPolled k s = true

/-- `SERVICED_BEFORE_READ` (R114, D24) for the next `k` steps: in each call the PSM polls the transaction's control
frame before the transport performs its `R` frame. -/
abbrev ServicedBeforeRead (k : Nat) (s : State) : Prop := alongRun requestServiced k s = true

/-- `POLLED_BEFORE_NEXT_FRAME` for one call made in `s`, with the environment that stands there. -/
abbrev CallPolledBeforeNextFrame (c : Call) (s : State) : Prop := requestPolled (.call c s.env) s = true

/-- `SERVICED_BEFORE_READ` for one call made in `s`, with the environment that stands there. -/
abbrev CallServicedBeforeRead (c : Call) (s : State) : Prop := requestServiced (.call c s.env) s = true

/-- The peripheral waits for a control frame, with nothing unpolled. -/
abbrev Ready (s : State) : Prop :=
  s.sessionOpen = true ∧ s.phase = .awaitingControl ∧ s.rxValid = false

end Sys2Proof.Machine
end

