-- ==== Sys2Proof/Certificates/Slice0/Obligations.lean ====
section
/-! DEFINITION. The statements. Each docstring names the rules of spec/ it formalises, or says that it is the model's
own. A next state is written `{ s with … }`, so every field not named is stated to be unchanged: the frame, the
register file included. -/

open Sys2Proof Sys2Proof.Machine

/-! ### Reset and session -/

/-- R107: what the reset leaves, at power-on and by `open`, in every element of the block to which the rule gives a
value. That no codec output stands at power-on is the model's form (assumption 8); of the codec after an `open` nothing
is said, and `open` keeps what stands there. -/
def Obligations.ResetAndOpenLeaveTheRuleValues : Prop :=
  (State.reset.phase = .awaitingControl ∧ State.reset.rxValid = false ∧ State.reset.rxData = [] ∧
    State.reset.txData = [] ∧ State.reset.sessionOpen = false ∧ State.reset.codec = CodecOut.blank) ∧
  ∀ s : State, ∃ t, exec .sessionOpen s = .next t ∧
    t.phase = .awaitingControl ∧ t.rxValid = false ∧ t.rxData = [] ∧ t.txData = [] ∧ t.sessionOpen = true

/-- R101: `open` resets the block and opens the session, after which frames are delivered; after a `close` nothing is
polled and nothing is delivered, and a later `open` gives what an `open` before the close gives. That `close` writes
the session flag alone is the model's reading of the rule (assumption 13), and so is that a poll of a closed session is
a step that changes nothing (assumption 10). The clause on the later `open`, an equality of whole states, holds of the register file,
`pend_addr` and `pend_len` by the model's choice of the draws' indices alone (assumption 4): R107 leaves these three
unspecified after an `open`, so of the hardware it says nothing about them. -/
def Obligations.SessionOpenAndCloseAct : Prop :=
  ∀ s : State, ∃ t u, exec .sessionOpen s = .next t ∧ exec .sessionClose s = .next u ∧
    (t.phase = .awaitingControl ∧ t.rxValid = false ∧ t.rxData = [] ∧ t.txData = [] ∧ t.sessionOpen = true) ∧
    t = { s with
      phase := t.phase, pendAddr := t.pendAddr, pendLen := t.pendLen, store := t.store, rxValid := t.rxValid,
      rxData := t.rxData, txData := t.txData, sessionOpen := t.sessionOpen, draws := t.draws } ∧
    (∀ bytes, ∃ v, exec (.busInbound bytes) t = .next v ∧ v.rxValid = true) ∧
    u = { s with sessionOpen := false } ∧
    exec .poll u = .next u ∧ (∀ bytes, exec (.busInbound bytes) u = .next u) ∧
    exec .sessionOpen u = .next t

/-- R101, R106: no state of the block is kept for a later `open`. R106 excepts what the reset leaves unspecified, the
register file, `pend_addr` and `pend_len` (R107): that these too come out the same, whatever the old block was, is the
model's choice, whose draws at an `open` are those of the counter alone (assumption 4), and says nothing of the
hardware. -/
def Obligations.OpenForgetsTheBlock : Prop :=
  ∀ (s : State) (ph : Phase) (pa pl : Byte) (st : Store) (rv : Bool) (rd tx : List Byte) (so : Bool),
    exec .sessionOpen
        { s with
          phase := ph, pendAddr := pa, pendLen := pl, store := st, rxValid := rv, rxData := rd, txData := tx,
          sessionOpen := so } =
      exec .sessionOpen s

/-! ### The frame classes -/

/-- R76, R77: an empty frame and a short control frame change nothing but what the poll consumes. -/
def Obligations.IgnoredFramesChangeNothing : Prop :=
  (∀ s : State, exec .pNone s = .next s) ∧
  (∀ (f : List Byte) (s : State), exec (.pCtrlShort f) s = .next s) ∧
  (∀ s : State, s.sessionOpen = true → s.rxValid = true →
    (s.rxData = [] ∨ s.phase = .awaitingControl ∧ 1 ≤ s.rxData.length ∧ s.rxData.length ≤ 2) →
    exec .poll s = .next { s with rxValid := false })

/-- R78: a write control frame retains address and length and awaits the data; no reply is staged. -/
def Obligations.WriteControlFrameRetainsPendingWrite : Prop :=
  ∀ (a l : Byte) (s : State),
    exec (.pCtrlWrite a l) s =
      .next { s with pendAddr := a, pendLen := l, phase := .awaitingDataCompletion }

/-- R79: a read control frame stages the in-range cells and nothing else changes. -/
def Obligations.ReadControlFrameStagesCells : Prop :=
  ∀ (a l : Byte) (s : State), ∃ t, exec (.pCtrlRead a l) s = .next t ∧
    t = { s with txData := t.txData } ∧
    t.txData.length = min l.toNat (64 - a.toNat) ∧
    ∀ j, j < min l.toNat (64 - a.toNat) → t.txData[j]? = some (readCell s.store (a.toNat + j))

/-- R80: an identity read stages the one byte `PERIPH_ADDR`, whatever its length byte. -/
def Obligations.IdentityReadStagesPeripheralAddress : Prop :=
  ∀ (l : Byte) (s : State),
    exec (.pCtrlIdent l) s = .next { s with txData := [s.config.periphAddr] }

/-- R81: a reserved direction does what `RESERVED_DIR_POLICY` says. -/
def Obligations.ReservedDirectionFollowsPolicy : Prop :=
  ∀ (a d l : Byte) (s : State), d ≠ dirWrite → d ≠ dirRead →
    (s.config.reservedDirPolicy = .ignore → exec (.pCtrlRsvd a d l) s = .next s) ∧
    (s.config.reservedDirPolicy = .asWrite →
      exec (.pCtrlRsvd a d l) s =
        .next { s with pendAddr := a, pendLen := l, phase := .awaitingDataCompletion }) ∧
    (s.config.reservedDirPolicy = .asRead → a = identityAddr →
      exec (.pCtrlRsvd a d l) s = .next { s with txData := [s.config.periphAddr] }) ∧
    (s.config.reservedDirPolicy = .asRead → a ≠ identityAddr →
      exec (.pCtrlRsvd a d l) s = exec (.pCtrlRead a l) s) ∧
    (∃ t, exec (.pCtrlRsvd a d l) s = .next t)

/-- R82: a data frame writes its first `min(pend_len, |f|)` bytes from `pend_addr`, never past cell 63, and the
machine awaits a control frame. -/
def Obligations.DataFrameWritesPendingCells : Prop :=
  ∀ (f : List Byte) (s : State), ∃ t, exec (.pData f) s = .next t ∧
    t = { s with store := t.store, phase := .awaitingControl } ∧
    ∀ i, i < 64 →
      readCell t.store i =
        if s.pendAddr.toNat ≤ i ∧ i < s.pendAddr.toNat + min s.pendLen.toNat f.length then
          f.getD (i - s.pendAddr.toNat) 0
        else readCell s.store i

/-! ### The poll -/

/-- R74: a poll of a closed session or an empty slot does nothing; else it consumes the frame and runs the
instruction the frame decodes to. It always answers a next state. That the poll of a closed session changes nothing
is the model's reading of R24 (assumption 10). -/
def Obligations.PollRunsTheDecodedFrame : Prop :=
  ∀ s : State,
    (s.sessionOpen = false ∨ s.rxValid = false → exec .poll s = .next s) ∧
    (s.sessionOpen = true → s.rxValid = true →
      exec .poll s = exec (decode s.phase s.rxData) { s with rxValid := false }) ∧
    ∃ t, exec .poll s = .next t

/-- R75: the transitions of the PSM, row by row, by the present phase and the bytes of the polled frame. -/
def Obligations.PollFollowsTheTransitionTable : Prop :=
  ∀ s : State, s.sessionOpen = true → ∃ t, exec .poll s = .next t ∧
    (s.rxValid = false → t = s) ∧
    (s.rxValid = true →
      (s.rxData = [] → t = { s with rxValid := false }) ∧
      (s.phase = .awaitingControl → 1 ≤ s.rxData.length → s.rxData.length ≤ 2 →
        t = { s with rxValid := false }) ∧
      (s.phase = .awaitingControl → 3 ≤ s.rxData.length → s.rxData.getD 1 0 = 0 →
        t = { s with
          rxValid := false, phase := .awaitingDataCompletion,
          pendAddr := s.rxData.getD 0 0, pendLen := s.rxData.getD 2 0 }) ∧
      (s.phase = .awaitingControl → 3 ≤ s.rxData.length → s.rxData.getD 1 0 = 1 → s.rxData.getD 0 0 ≠ 0xFF →
        t = { s with
          rxValid := false,
          txData := memRead s.store (s.rxData.getD 0 0).toNat (s.rxData.getD 2 0).toNat }) ∧
      (s.phase = .awaitingControl → 3 ≤ s.rxData.length → s.rxData.getD 1 0 = 1 → s.rxData.getD 0 0 = 0xFF →
        t = { s with rxValid := false, txData := [s.config.periphAddr] }) ∧
      (s.phase = .awaitingControl → 3 ≤ s.rxData.length → 2 ≤ (s.rxData.getD 1 0).toNat →
        s.config.reservedDirPolicy = .ignore → t = { s with rxValid := false }) ∧
      (s.phase = .awaitingDataCompletion → s.rxData ≠ [] →
        t = { s with
          rxValid := false, phase := .awaitingControl,
          store := memWrite s.store s.pendAddr.toNat
            (s.rxData.take (min s.pendLen.toNat s.rxData.length)) }))

/-- R86 (4): a poll enters `AwaitingDataCompletion` only from a write control frame, or from a reserved direction
under `AsWrite`, and the pending write is that frame's. -/
def Obligations.PendingWriteEnteredOnlyByWriteFrame : Prop :=
  ∀ s t : State, exec .poll s = .next t → s.phase = .awaitingControl → t.phase = .awaitingDataCompletion →
    s.sessionOpen = true ∧ s.rxValid = true ∧ 3 ≤ s.rxData.length ∧
    (s.rxData.getD 1 0 = 0 ∨
      2 ≤ (s.rxData.getD 1 0).toNat ∧ s.config.reservedDirPolicy = .asWrite) ∧
    t.pendAddr = s.rxData.getD 0 0 ∧ t.pendLen = s.rxData.getD 2 0

/-- R16, R110, R111: a pending write is left only by the poll of a non-empty frame or by a session `open`; no delivery
and no read of the bus clears it. That a `close` does not clear it by itself is the model's reading (assumption 13):
R101 has a close abandon the pending write and R111 names the close and the open together, while R16 has the PSM and the
reset alone write `phase`, so the model clears it at the open. -/
def Obligations.PendingWriteLeftOnlyByDataOrOpen : Prop :=
  (∀ (m : Move) (s t : State), exec m.instr s = .next t →
    s.phase = .awaitingDataCompletion → t.phase = .awaitingControl →
    m = .hostOpen ∨ m = .poll ∧ s.sessionOpen = true ∧ s.rxValid = true ∧ s.rxData ≠ []) ∧
  (∀ (n : Nat) (s t : State), exec (.busRead n) s = .next t → t.phase = s.phase)

/-- R86 (5), R107: a step changes the register file only in the poll of a data frame, in an `open` (the reset), or in a
controller call during which, in the very state it is made in, a poll of the PSM takes a data frame or the host opens the
session. A call and what the other agents do while it blocks are one step of the model (assumption 7). -/
def Obligations.RegisterFileChangesOnlyInDataPhase : Prop :=
  ∀ s t : State, step s = .next t → t.store ≠ s.store →
    (s.agenda = [] ∨ ∃ rest, s.agenda = .move .poll :: rest) ∧
      s.sessionOpen = true ∧ s.rxValid = true ∧ s.rxData ≠ [] ∧ s.phase = .awaitingDataCompletion ∨
    (∃ rest, s.agenda = .move .hostOpen :: rest) ∨
    ∃ c e rest, s.agenda = .call c e :: rest ∧ callStores c { s with agenda := rest, env := e } = true

/-- R85, R111: with nothing asked of the block and nothing in the slot, any number of steps leaves the state as it
is: a PSM that awaits data waits without end. That a step with nothing asked is a poll is the model's (assumption
3). -/
def Obligations.PeripheralWaitsForever : Prop :=
  ∀ (k : Nat) (s : State), s.agenda = [] → s.rxValid = false → stepN k s = .next s

/-! ### The transport's actions -/

/-- R83: an open session takes the first `RX_CAPACITY` bytes of the frame and marks the slot; a closed one takes
nothing. -/
def Obligations.InboundFrameFillsTheSlot : Prop :=
  ∀ (bytes : List Byte) (s : State),
    (s.sessionOpen = true →
      exec (.busInbound bytes) s =
        .next { s with
          rxData := bytes.take (min bytes.length s.config.rxCapacity), rxValid := true }) ∧
    (s.sessionOpen = false → exec (.busInbound bytes) s = .next s)

/-- R113: of two frames that arrive before a poll, the first is lost. -/
def Obligations.SecondInboundFrameReplacesTheFirst : Prop :=
  ∀ (b₁ b₂ : List Byte) (s t : State), exec (.busInbound b₁) s = .next t →
    exec (.busInbound b₂) t = exec (.busInbound b₂) s

/-- R84, for an open session: `n` bytes, the staged reply after `READ_OFFSET` bytes; every other position is a free
draw of its own, whose index is the model's (assumption 5). Nothing of the block changes, so a second read is served
the same reply. -/
def Obligations.OutboundReadServesTheStagedReply : Prop :=
  ∀ (n : Nat) (s : State), s.sessionOpen = true → ∃ t, exec (.busRead n) s = .next t ∧
    t = { s with raw := t.raw, draws := s.draws + n } ∧ t.raw.length = n ∧
    (∀ j, s.config.readOffset ≤ j → j < n → j < s.config.readOffset + s.txData.length →
      t.raw[j]? = s.txData[j - s.config.readOffset]?) ∧
    (∀ j, j < n → (j < s.config.readOffset ∨ s.config.readOffset + s.txData.length ≤ j) →
      t.raw[j]? = some (Config.freeByte (s.draws + j)))

/-- D22 and U5 of the spec: while the session is closed every byte of an `R` frame is a free draw, and the block's
state does not change. The model's reading (assumption 6); the index of a draw is the model's (assumption 5). -/
def Obligations.OutboundReadOfClosedSessionIsFree : Prop :=
  ∀ (n : Nat) (s : State), s.sessionOpen = false → ∃ t, exec (.busRead n) s = .next t ∧
    t = { s with raw := t.raw, draws := s.draws + n } ∧ t.raw.length = n ∧
    ∀ j, j < n → t.raw[j]? = some (Config.freeByte (s.draws + j))

/-! ### The register file -/

/-- R33: the in-range length, in its three cases. -/
def Obligations.InRangeLengthCases : Prop :=
  ∀ a n : Nat,
    (a + n ≤ 64 → inrange a n = n) ∧ (a ≤ 64 → 64 < a + n → inrange a n = 64 - a) ∧
    (64 ≤ a → inrange a n = 0)

/-- R87: MEM_READ returns the in-range cells in ascending order and changes no state of the block. The field that
holds what it returns is the model's (assumption 9). -/
def Obligations.MemReadReturnsCells : Prop :=
  ∀ (a n : Byte) (s : State), ∃ t, exec (.memRead a n) s = .next t ∧
    t = { s with memOut := t.memOut } ∧
    t.memOut.length = min n.toNat (64 - a.toNat) ∧
    ∀ j, j < min n.toNat (64 - a.toNat) → t.memOut[j]? = some (readCell s.store (a.toNat + j))

/-- R88: MEM_WRITE stores byte `i` in cell `a + i`, drops what would fall past cell 63, and leaves every other cell
as it was. -/
def Obligations.MemWriteStoresExactlyTheRegion : Prop :=
  ∀ (a : Byte) (bytes : List Byte) (s : State), ∃ t, exec (.memWrite a bytes) s = .next t ∧
    t = { s with store := t.store } ∧
    ∀ i, i < 64 →
      readCell t.store i =
        if a.toNat ≤ i ∧ i < a.toNat + bytes.length then bytes.getD (i - a.toNat) 0
        else readCell s.store i

/-- R40: a read of what a write just stored returns it, cut to the file (through the model's field for what MEM_READ
returns: assumption 9). -/
def Obligations.MemReadAfterMemWriteReturnsTheBytes : Prop :=
  ∀ (a n : Byte) (bytes : List Byte) (s t : State), exec (.memWrite a bytes) s = .next t →
    n.toNat ≤ bytes.length →
    ∃ u, exec (.memRead a n) t = .next u ∧ u.memOut = bytes.take (min n.toNat (64 - a.toNat))

/-- R15: no instruction writes the parameters of the instance. -/
def Obligations.ParametersAreNeverWritten : Prop :=
  ∀ (i : Instr) (s t : State), exec i s = .next t → t.config = s.config

/-- R21, R90: after any run, whatever was written and to whichever address, an identity read stages `PERIPH_ADDR`, and
a write to address 0xFF leaves the whole state as it was. -/
def Obligations.IdentityNeverAliasesACell : Prop :=
  (∀ (k : Nat) (s t : State), stepN k s = .next t → ∀ l : Byte, ∃ u,
    exec (.pCtrlIdent l) t = .next u ∧ u.txData = [s.config.periphAddr] ∧ u.store = t.store) ∧
  (∀ (bytes : List Byte) (s : State), exec (.memWrite identityAddr bytes) s = .next s)

/-! ### The codec's steps -/

/-- R65: an address up to 63 passes and writes nothing; a higher one ends the call with `InvalidAddress` and no
warning, no transaction and no data. -/
def Obligations.ValidationRejectsAddressesAbove63 : Prop :=
  ∀ (a : Byte) (s : State),
    (a.toNat ≤ 63 → exec (.codecValidate a) s = .next s) ∧
    (63 < a.toNat → ∃ t, exec (.codecValidate a) s = .next t ∧ t = { s with codec := t.codec } ∧
      t.codec.status = some (.invalidAddress a) ∧ warnOverflow t.codec = false ∧ t.codec.txn = [] ∧
      t.codec.dataOut = none)

/-- R66: the effective length and the warning, for a valid address and any length. -/
def Obligations.ClampingWarnsOnOverflow : Prop :=
  ∀ (a : Byte) (n : Nat) (s : State), a.toNat ≤ 63 →
    (64 < a.toNat + n →
      exec (.codecClamp a n) s =
        .next { s with
          codec := { s.codec with warn := some ⟨n, 64 - a.toNat⟩, effLen := some (64 - a.toNat) } }) ∧
    (a.toNat + n ≤ 64 →
      exec (.codecClamp a n) s =
        .next { s with codec := { s.codec with warn := none, effLen := some n } })

/-- R67: the write transaction, its data frame cut to `L` bytes; a shorter payload is refused. -/
def Obligations.EncodeWriteEmitsControlThenData : Prop :=
  ∀ (a l : Byte) (p : List Byte) (s : State),
    (l.toNat ≤ p.length →
      exec (.encWrite a l p) s =
        .next { s with codec := { s.codec with txn := [.w [a, 0, l], .w (p.take l.toNat)] } }) ∧
    (p.length < l.toNat → exec (.encWrite a l p) s = .refused .payloadTooShort)

/-- R68: the read transaction, its receive region sized from the clamped length and `READ_OFFSET`. -/
def Obligations.EncodeReadEmitsControlThenRegion : Prop :=
  ∀ (a l : Byte) (s : State),
    exec (.encRead a l) s =
      .next { s with
        codec := { s.codec with txn := [.w [a, 1, l], .r (l.toNat + s.config.readOffset)] } }

/-- R69: the identity transaction and its flags. -/
def Obligations.EncodeIdentityEmitsFixedQuery : Prop :=
  ∀ s : State,
    exec .encIdent s =
      .next { s with
        codec := { s.codec with
          warn := none, effLen := some 1, txn := [.w [0xFF, 1, 1], .r (1 + s.config.readOffset)] } }

/-- R70: the decoder discards exactly `READ_OFFSET` leading bytes, whatever they are; a buffer of another size is
refused. -/
def Obligations.DecodeReadDiscardsTheOffset : Prop :=
  (∀ (lead data : List Byte) (s : State), lead.length = s.config.readOffset →
    exec (.decRead (lead ++ data) data.length) s =
      .next { s with codec := { s.codec with dataOut := some data } }) ∧
  (∀ (raw : List Byte) (l : Nat) (s : State), raw.length ≠ l + s.config.readOffset →
    exec (.decRead raw l) s = .refused .rawSizeMismatch)

/-! ### The controller-facing operations -/

/-- R92, R96: a call with an invalid address ends with that status alone, whatever its length: the transport and the
peripheral see nothing of it. -/
def Obligations.InvalidAddressEndsTheCallUnseen : Prop :=
  ∀ (a : Byte) (n : Nat) (p : List Byte) (s : State), 63 < a.toNat → ∃ t,
    exec (.opWrite a n p) s = .next t ∧ exec (.opRead a n) s = .next t ∧ t = { s with codec := t.codec } ∧
    t.codec.status = some (.invalidAddress a) ∧ warnOverflow t.codec = false ∧ t.codec.txn = [] ∧
    t.codec.dataOut = none

/-- R71, R93, R94: a write call with a valid address and enough payload, whatever the other agents do while it
blocks: its flags, its transaction and its status. The environment of the call is the model's (assumption 7). -/
def Obligations.WriteCallReportsItsOutcome : Prop :=
  ∀ (a : Byte) (n : Nat) (p : List Byte) (s : State), a.toNat ≤ 63 → min n (64 - a.toNat) ≤ p.length →
    ∃ t, exec (.opWrite a n p) s = .next t ∧
      t.codec.effLen = some (min n (64 - a.toNat)) ∧
      t.codec.warn = (if 64 < a.toNat + n then some ⟨n, 64 - a.toNat⟩ else none) ∧
      t.codec.txn =
        [.w [a, 0, BitVec.ofNat 8 (min n (64 - a.toNat))], .w (p.take (min n (64 - a.toNat)))] ∧
      t.codec.dataOut = none ∧
      (s.env.failAfter = none → t.codec.status = some .ok) ∧
      (s.env.failAfter ≠ none → t.codec.status = some .transportFailure) ∧
      t.config = s.config ∧ t.memOut = s.memOut ∧ t.env = s.env ∧ t.agenda = s.agenda

/-- D14 and X1 of the spec: a write call with a valid address and a payload of fewer than `L` bytes is refused. -/
def Obligations.WriteCallRefusesAShortPayload : Prop :=
  ∀ (a : Byte) (n : Nat) (p : List Byte) (s : State), a.toNat ≤ 63 → p.length < min n (64 - a.toNat) →
    exec (.opWrite a n p) s = .refused .payloadTooShort

/-- R72, R93, R94: a read call with a valid address always completes: its flags, its transaction, its status, and the
data decoded from the receive region when the transport succeeds. The environment of the call is the model's
(assumption 7). -/
def Obligations.ReadCallReportsItsOutcome : Prop :=
  ∀ (a : Byte) (n : Nat) (s : State), a.toNat ≤ 63 → ∃ t, exec (.opRead a n) s = .next t ∧
    t.codec.effLen = some (min n (64 - a.toNat)) ∧
    t.codec.warn = (if 64 < a.toNat + n then some ⟨n, 64 - a.toNat⟩ else none) ∧
    t.codec.txn =
      [.w [a, 1, BitVec.ofNat 8 (min n (64 - a.toNat))],
        .r (min n (64 - a.toNat) + s.config.readOffset)] ∧
    (s.env.failAfter = none →
      t.codec.status = some .ok ∧ t.raw.length = min n (64 - a.toNat) + s.config.readOffset ∧
      t.codec.dataOut = some (t.raw.drop s.config.readOffset)) ∧
    (s.env.failAfter ≠ none →
      t.codec.status = some .transportFailure ∧ t.codec.dataOut = none) ∧
    t.config = s.config ∧ t.memOut = s.memOut ∧ t.env = s.env ∧ t.agenda = s.agenda

/-- R73, R93: an identity query always completes, and never with `InvalidAddress`. The environment of the call is the
model's (assumption 7). -/
def Obligations.IdentityCallReportsItsOutcome : Prop :=
  ∀ s : State, ∃ t, exec .opIdent s = .next t ∧
    t.codec.effLen = some 1 ∧ warnOverflow t.codec = false ∧
    t.codec.txn = [.w [0xFF, 1, 1], .r (1 + s.config.readOffset)] ∧
    (s.env.failAfter = none →
      t.codec.status = some .ok ∧ t.raw.length = 1 + s.config.readOffset ∧
      t.codec.dataOut = some (t.raw.drop s.config.readOffset)) ∧
    (s.env.failAfter ≠ none →
      t.codec.status = some .transportFailure ∧ t.codec.dataOut = none) ∧
    t.config = s.config ∧ t.memOut = s.memOut ∧ t.env = s.env ∧ t.agenda = s.agenda

/-- R91, R16: the codes; status code 3 is never produced. -/
def Obligations.StatusAndPhaseCodes : Prop :=
  statusCode .ok = 0 ∧ (∀ a, statusCode (.invalidAddress a) = 1) ∧ statusCode .transportFailure = 2 ∧
  (∀ st, statusCode st ≠ 3) ∧ phaseCode .awaitingControl = 0 ∧ phaseCode .awaitingDataCompletion = 1

/-! ### Calls and the peripheral together -/

/-- R71, R82 under `POLLED_BEFORE_NEXT_FRAME`: a write of length at least 1 stores exactly its effective region, and
the peripheral is ready again, once the PSM has polled after the call; a poll in the gap after the data frame is that
poll. That the transport succeeds and no other agent moves is asked for besides; how a call's environment is put is the
model's (assumptions 7 and 12). -/
def Obligations.PolledWriteStoresExactlyItsRegion : Prop :=
  ∀ (a : Byte) (n : Nat) (p : List Byte) (s : State), Ready s → s.env.failAfter = none → Undisturbed s.env →
    CallPolledBeforeNextFrame (.write a n p) s → a.toNat ≤ 63 → 1 ≤ n → min n (64 - a.toNat) ≤ p.length →
    ∃ t u, exec (.opWrite a n p) s = .next t ∧ t.codec.status = some .ok ∧ exec .poll t = .next u ∧
      (Move.poll ∈ gapAt s.env 2 → u = t) ∧ u.codec = t.codec ∧ Ready u ∧
      u.txData = s.txData ∧ u.raw = s.raw ∧ u.draws = s.draws ∧
      u.pendAddr = a ∧ u.pendLen.toNat = min n (64 - a.toNat) ∧
      ∀ i, i < 64 →
        readCell u.store i =
          if a.toNat ≤ i ∧ i < a.toNat + n then p.getD (i - a.toNat) 0 else readCell s.store i

/-- R72, R79 under `SERVICED_BEFORE_READ`: a read returns the in-range cells, changes no cell and leaves the
peripheral ready. That the transport succeeds and no other agent moves is asked for besides; how a call's environment is
put is the model's (assumptions 7 and 12). -/
def Obligations.ServicedReadReturnsTheCells : Prop :=
  ∀ (a : Byte) (n : Nat) (s : State), Ready s → s.env.failAfter = none → Undisturbed s.env →
    CallServicedBeforeRead (.read a n) s → a.toNat ≤ 63 →
    ∃ t d, exec (.opRead a n) s = .next t ∧ t.codec.status = some .ok ∧ t.codec.dataOut = some d ∧
      d.length = min n (64 - a.toNat) ∧
      (∀ j, j < min n (64 - a.toNat) → d[j]? = some (readCell s.store (a.toNat + j))) ∧
      t.store = s.store ∧ t.pendAddr = s.pendAddr ∧ t.pendLen = s.pendLen ∧ t.txData = d ∧ Ready t

/-- R40, and §8 of the source as 95_test_vectors.md V7 transcribes it: a read after a write of the same region
returns exactly the data, under the two named scheduling assumptions over the whole run, in a run of the machine's own
steps. The PSM may poll the data frame in the write call's last gap, in any of the `m` polls between the calls or in the
read call's first gap. That both transports succeed and no other agent moves is asked for besides; how such a run is put
is the model's (assumptions 3, 7 and 12). -/
def Obligations.ReadAfterWriteCallReturnsTheData : Prop :=
  ∀ (a : Byte) (n m : Nat) (p : List Byte) (s : State) (e₁ e₂ : CallEnv) (rest : List Request),
    Ready s → e₁.failAfter = none → Undisturbed e₁ → e₂.failAfter = none → Undisturbed e₂ →
    1 ≤ n → a.toNat + n ≤ 64 → n ≤ p.length →
    s.agenda = .call (.write a n p) e₁ :: (List.replicate m (.move .poll) ++ .call (.read a n) e₂ :: rest) →
    PolledBeforeNextFrame (m + 2) s → ServicedBeforeRead (m + 2) s →
    ∃ t, stepN (m + 2) s = .next t ∧
      t.codec.status = some .ok ∧ warnOverflow t.codec = false ∧ t.codec.dataOut = some (p.take n) ∧
      t.agenda = rest ∧ Ready t

/-- R73, R90 under `SERVICED_BEFORE_READ`: the query returns `PERIPH_ADDR` whatever the register file holds
(the transport succeeds and no other agent moves; assumptions 7 and 12 say how the environment of the call is put). -/
def Obligations.ServicedIdentityQueryReturnsPeripheralAddress : Prop :=
  ∀ s : State, Ready s → s.env.failAfter = none → Undisturbed s.env → CallServicedBeforeRead .identity s →
    ∃ t, exec .opIdent s = .next t ∧ t.codec.status = some .ok ∧
      t.codec.dataOut = some [s.config.periphAddr] ∧ t.store = s.store ∧
      t.pendAddr = s.pendAddr ∧ t.pendLen = s.pendLen ∧ t.txData = [s.config.periphAddr] ∧ Ready t

/-- R114: when the PSM polls nothing during the call, the read receives the previous reply, and its control frame
waits in the slot. An environment with no gap listed is the model's way to say so (assumption 7). -/
def Obligations.UnservicedReadReturnsThePreviousReply : Prop :=
  ∀ (a : Byte) (n : Nat) (s : State), s.sessionOpen = true → a.toNat ≤ 63 → s.env = ⟨[], none⟩ →
    ∃ t d, exec (.opRead a n) s = .next t ∧ t.codec.dataOut = some d ∧
      d.length = min n (64 - a.toNat) ∧
      (∀ j, j < min n (64 - a.toNat) → j < s.txData.length → d[j]? = s.txData[j]?) ∧
      t.txData = s.txData ∧ t.store = s.store ∧ t.phase = s.phase ∧ t.pendAddr = s.pendAddr ∧
      t.pendLen = s.pendLen ∧ t.sessionOpen = true ∧ t.rxValid = true ∧
      t.rxData = [a, 1, BitVec.ofNat 8 (min n (64 - a.toNat))]

/-- R112: under `POLLED_BEFORE_NEXT_FRAME` a write of length 0 leaves the PSM awaiting data with `pend_len = 0`, also
once its empty data frame has been polled, and the next non-empty frame is consumed as a data frame that writes nothing
and stages nothing (the transport succeeds and no other agent moves; assumptions 7 and 12 say how the environment of the
call is put). -/
def Obligations.ZeroLengthWriteSwallowsTheNextFrame : Prop :=
  ∀ (a : Byte) (p : List Byte) (s : State), Ready s → s.env.failAfter = none → Undisturbed s.env →
    CallPolledBeforeNextFrame (.write a 0 p) s → a.toNat ≤ 63 →
    ∃ t u, exec (.opWrite a 0 p) s = .next t ∧ t.codec.status = some .ok ∧ exec .poll t = .next u ∧
      (Move.poll ∈ gapAt s.env 2 → u = t) ∧ u = { t with rxValid := false } ∧
      u.phase = .awaitingDataCompletion ∧ u.pendAddr = a ∧ u.pendLen = 0 ∧
      u.sessionOpen = true ∧ u.store = s.store ∧ u.txData = s.txData ∧
      ∀ f : List Byte, f ≠ [] →
        exec .poll { u with rxValid := true, rxData := f } =
          .next { u with rxValid := false, rxData := f, phase := .awaitingControl }

/-- R115: after a failed write call the peripheral is as the delivered frames made it: none delivered and nothing
polled, the block is untouched; the control frame delivered and polled, it awaits data; both frames delivered and
polled, the effective region is stored and the peripheral is ready again, though the call reports the failure. How the
prefix is chosen is the model's (assumptions 7 and 14). -/
def Obligations.FailedWriteCallKeepsWhatWasDelivered : Prop :=
  ∀ (a : Byte) (n : Nat) (p : List Byte) (s : State), Ready s → a.toNat ≤ 63 →
    min n (64 - a.toNat) ≤ p.length →
    (s.env.failAfter = some 0 → OnlyPolls (gapAt s.env 0) → ∃ t, exec (.opWrite a n p) s = .next t ∧
      t.codec.status = some .transportFailure ∧ t = { s with codec := t.codec }) ∧
    (s.env.failAfter = some 1 → OnlyPolls (gapAt s.env 0) → Polled (gapAt s.env 1) →
      ∃ t, exec (.opWrite a n p) s = .next t ∧
        t.codec.status = some .transportFailure ∧ t.phase = .awaitingDataCompletion ∧ t.pendAddr = a ∧
        t.pendLen.toNat = min n (64 - a.toNat) ∧ t.store = s.store ∧ t.rxValid = false) ∧
    (∀ k, s.env.failAfter = some k → 2 ≤ k → 1 ≤ n →
      OnlyPolls (gapAt s.env 0) → Polled (gapAt s.env 1) → Polled (gapAt s.env 2) →
      ∃ t, exec (.opWrite a n p) s = .next t ∧
        t.codec.status = some .transportFailure ∧ Ready t ∧ t.txData = s.txData ∧ t.pendAddr = a ∧
        t.pendLen.toNat = min n (64 - a.toNat) ∧
        ∀ i, i < 64 →
          readCell t.store i =
            if a.toNat ≤ i ∧ i < a.toNat + n then p.getD (i - a.toNat) 0 else readCell s.store i)

/-! ### Encoding -/

/-- R61: the classification, line by line. -/
def Obligations.FramesAreClassifiedInTheRuleOrder : Prop :=
  ∀ f : List Byte,
    (∀ ph, f = [] → decode ph f = .pNone) ∧
    (f ≠ [] → decode .awaitingDataCompletion f = .pData f) ∧
    (1 ≤ f.length → f.length < 3 → decode .awaitingControl f = .pCtrlShort f) ∧
    (3 ≤ f.length → f.getD 1 0 = 0 →
      decode .awaitingControl f = .pCtrlWrite (f.getD 0 0) (f.getD 2 0)) ∧
    (3 ≤ f.length → f.getD 1 0 = 1 → f.getD 0 0 = 0xFF →
      decode .awaitingControl f = .pCtrlIdent (f.getD 2 0)) ∧
    (3 ≤ f.length → f.getD 1 0 = 1 → f.getD 0 0 ≠ 0xFF →
      decode .awaitingControl f = .pCtrlRead (f.getD 0 0) (f.getD 2 0)) ∧
    (3 ≤ f.length → f.getD 1 0 ≠ 0 → f.getD 1 0 ≠ 1 →
      decode .awaitingControl f = .pCtrlRsvd (f.getD 0 0) (f.getD 1 0) (f.getD 2 0))

/-- R49, R51, R58, R60, R61: the frame of every well-formed row decodes to that row, and a control frame the codec
emits decodes to the PSM's row for it, with every operand at every value. -/
def Obligations.EncodedFramesDecodeToTheirInstruction : Prop :=
  ∀ (c : Config) (i : Instr) (f : List Byte), i.wellFormed c = true → encode i = some f →
    decode i.framePhase f = i.received

/-- R62: every frame the slot can hold decodes, in either phase, to a well-formed instruction, whose own frame is the
one received, less what follows a control frame's third byte (R55). -/
def Obligations.EveryFrameDecodesToAWellFormedInstruction : Prop :=
  ∀ (c : Config) (ph : Phase) (f : List Byte), f.length ≤ c.rxCapacity →
    (decode ph f).wellFormed c = true ∧
    ∃ g, encode (decode ph f) = some g ∧
      g = (if ph = .awaitingControl then f.take 3 else f)

/-- R51, R78 to R81: the match and mask columns over the control word, in the table's order, are the decoder's
classification of a control frame. -/
def Obligations.ControlWordRowsMatchTheDecoder : Prop :=
  ∀ (a d l : Byte) (rest : List Byte),
    (rowCtrlWrite.hits (controlWord a d l) = true ↔
      decode .awaitingControl (a :: d :: l :: rest) = .pCtrlWrite a l) ∧
    (rowCtrlIdent.hits (controlWord a d l) = true ↔
      decode .awaitingControl (a :: d :: l :: rest) = .pCtrlIdent l) ∧
    (rowCtrlRead.hits (controlWord a d l) = true ∧ rowCtrlIdent.hits (controlWord a d l) = false ↔
      decode .awaitingControl (a :: d :: l :: rest) = .pCtrlRead a l) ∧
    (rowCtrlWrite.hits (controlWord a d l) = false ∧ rowCtrlRead.hits (controlWord a d l) = false ↔
      decode .awaitingControl (a :: d :: l :: rest) = .pCtrlRsvd a d l)

/-- Words of opcode_table.json written out from R51 and 95_test_vectors.md decode to what they stand for. -/
def Obligations.TableWordsDecode : Prop :=
  decodeTableWord 24 0x3C0004 = some (.pCtrlWrite 0x3C 0x04) ∧
  decodeTableWord 24 0x050102 = some (.pCtrlRead 0x05 0x02) ∧
  decodeTableWord 24 0xFF0101 = some (.pCtrlIdent 0x01) ∧
  decodeTableWord 24 0x000701 = some (.pCtrlRsvd 0x00 0x07 0x01)

/-! ### Every step -/

/-- R74, R85, R108 for the poll; which request is next is the model's agenda (assumption 3). A step with nothing
asked polls: it runs the instruction the waiting frame decodes to, or changes nothing; else it runs the next
request. That a poll of a closed session with a frame in the slot is a step that changes nothing is the model's
reading (assumption 10). -/
def Obligations.StepRunsTheDecodedInstruction : Prop :=
  ∀ s : State,
    (∀ i : Instr, s.agenda = [] → s.sessionOpen = true → s.rxValid = true → decode s.phase s.rxData = i →
      i.wellFormed s.config = true → step s = exec i { s with rxValid := false }) ∧
    (s.agenda = [] → s.sessionOpen = false ∨ s.rxValid = false → step s = .next s) ∧
    (∀ m rest, s.agenda = .move m :: rest → step s = exec m.instr { s with agenda := rest }) ∧
    (∀ n rest, s.agenda = .outbound n :: rest → step s = exec (.busRead n) { s with agenda := rest }) ∧
    (∀ c e rest, s.agenda = .call c e :: rest →
      step s = exec c.instr { s with agenda := rest, env := e })

/-- R95, R97: a step stops only where the controller calls `write` with a valid address and a payload of fewer bytes
than its effective length, which the spec has a model refuse (D14; assumptions 3 and 15). -/
def Obligations.StepStopsOnlyOnAShortPayload : Prop :=
  ∀ s : State, (∃ t, step s = .next t) ∨
    step s = .refused .payloadTooShort ∧
      ∃ a n p e rest, s.agenda = .call (.write a n p) e :: rest ∧ a.toNat ≤ 63 ∧
        p.length < min n (64 - a.toNat)

/-- The model's agenda (assumption 3; the fairness of R117 is out of the model, assumption 16): every step takes one
request of it, so after as many steps as it has requests none is left and every step is a poll, as R85 and R108 have the
PSM poll without end. -/
def Obligations.EveryStepTakesOneRequest : Prop :=
  (∀ s t : State, step s = .next t → t.agenda = s.agenda.tail) ∧
  ∀ (k : Nat) (s t : State), s.agenda.length ≤ k → stepN k s = .next t →
    t.agenda = [] ∧ step t = exec .poll t

/-- R22, R25, R86 (1), R92, R93, R96: every step from every state keeps the bounds of the buffers and the agreement
of a call's outputs. That an invalid address comes with no effective length is the model's reading (assumption 8). -/
def Obligations.EveryStepKeepsTheInvariant : Prop :=
  ∀ s t : State, Inv s → step s = .next t → Inv t

/-- The invariant holds at reset. -/
def Obligations.InvariantHoldsAtReset : Prop := Inv State.reset
end

