-- ==== Sys2Proof/Laws/Operands.lean ====
section
/-! SUPPORT. What the operand forms give: lengths and elements of a slice, the bounds of the in-range length, and the
length byte. -/

namespace Sys2Proof.Machine

theorem slice_zero (f : List Byte) (k : Nat) : slice f 0 k = f.take k := by simp [slice]

theorem slice_length (f : List Byte) (i j : Nat) : (slice f i j).length = min j f.length - i := by
  simp [slice]

theorem slice_getElem? (f : List Byte) (i j k : Nat) :
    (slice f i j)[k]? = if i + k < j then f[i + k]? else none := by
  simp [slice, List.getElem?_take]

/-- The in-range length with its constant written out (R33). -/
theorem inrange_eq (a n : Nat) : inrange a n = min n (64 - a) := rfl

/-- The clamped length with its constants written out (R66). -/
theorem clampedLen_eq (a n : Nat) : clampedLen a n = min n (64 - a) := by
  unfold clampedLen overflows
  by_cases h : a + n > 64 <;> simp [h, storeSize] <;> omega

theorem inrange_le (a n : Nat) : inrange a n ≤ n := Nat.min_le_left ..

theorem inrange_le_store (a n : Nat) : inrange a n ≤ 64 := by rw [inrange_eq]; omega

/-- No index of an access is above 63 (R34). -/
theorem index_lt_of_lt_inrange {a n i : Nat} (h : i < inrange a n) : a + i < 64 := by
  rw [inrange_eq] at h; omega

/-- The codec's clamped length is the in-range length (R66). -/
theorem clampedLen_eq_inrange (a n : Nat) : clampedLen a n = inrange a n := by
  rw [clampedLen_eq, inrange_eq]

theorem clampedLen_le_store (a n : Nat) : clampedLen a n ≤ 64 := by
  rw [clampedLen_eq_inrange]; exact inrange_le_store a n

theorem lengthByte_toNat {l : Nat} (h : l ≤ 64) : (lengthByte l).toNat = l := by
  simp only [lengthByte, BitVec.toNat_ofNat]; omega

theorem lengthByte_clampedLen_toNat (a n : Nat) : (lengthByte (clampedLen a n)).toNat = clampedLen a n :=
  lengthByte_toNat (clampedLen_le_store a n)

theorem validAddr_iff (a : Byte) : validAddr a = true ↔ a.toNat ≤ 63 := by simp [validAddr]

end Sys2Proof.Machine
end

