-- ==== Sys2Proof/Laws/RegisterFile.lean ====
section
/-! SUPPORT. What the register-file operations can do: every read of a cell after a write, in closed form. -/

namespace Sys2Proof.Machine

theorem readCell_eq_getElem (st : Store) {i : Nat} (h : i < 64) : readCell st i = st[i] := by
  simp [readCell, h]

/-- Register files that read the same in every cell are equal. -/
theorem store_ext {st st' : Store} (h : ∀ i, i < 64 → readCell st i = readCell st' i) : st = st' := by
  apply Vector.ext
  intro i hi
  simpa [readCell_eq_getElem _ hi] using h i hi

theorem readCell_writeCell (st : Store) (i j : Nat) (v : Byte) :
    readCell (writeCell st i v) j = if j = i ∧ j < 64 then v else readCell st j := by
  unfold readCell writeCell
  rw [Vector.getElem?_setIfInBounds]
  by_cases hji : i = j
  · subst hji
    by_cases hi : i < 64 <;> simp [hi]
  · simp [hji, Ne.symm hji]

theorem readCell_writeCells (st : Store) (a : Nat) (vs : List Byte) (j : Nat) :
    readCell (writeCells st a vs) j =
      if a ≤ j ∧ j < a + vs.length ∧ j < 64 then vs.getD (j - a) 0 else readCell st j := by
  induction vs generalizing st a with
  | nil =>
    rw [if_neg (by simp only [List.length_nil]; omega)]
    rfl
  | cons v vs ih =>
    rw [writeCells, ih, readCell_writeCell]
    by_cases hj : j = a
    · subst hj
      rw [if_neg (by omega)]
      by_cases h64 : j < 64 <;> simp [h64]
    · by_cases h : a + 1 ≤ j ∧ j < a + 1 + vs.length ∧ j < 64
      · obtain ⟨k, rfl⟩ : ∃ k, j = a + 1 + k := ⟨j - (a + 1), by omega⟩
        rw [if_pos h, if_pos (by simp only [List.length_cons]; omega)]
        have h1 : a + 1 + k - (a + 1) = k := by omega
        have h2 : a + 1 + k - a = k + 1 := by omega
        rw [h1, h2, List.getD_cons_succ]
      · rw [if_neg h, if_neg (by simp [hj]), if_neg (by simp only [List.length_cons]; omega)]

/-- Every cell after `MemWrite` (R88): the bytes of the in-range part, else what it held. -/
theorem readCell_memWrite (st : Store) (a : Nat) (bytes : List Byte) (j : Nat) :
    readCell (memWrite st a bytes) j =
      if a ≤ j ∧ j < a + bytes.length ∧ j < 64 then bytes.getD (j - a) 0 else readCell st j := by
  rw [memWrite, readCell_writeCells]
  by_cases h : a ≤ j ∧ j < a + bytes.length ∧ j < 64
  · have hk : j - a < inrange a bytes.length := by rw [inrange_eq]; omega
    rw [if_pos h, if_pos (by rw [List.length_take]; rw [inrange_eq] at *; omega)]
    simp [List.getD_eq_getElem?_getD, hk]
  · rw [if_neg h, if_neg (by rw [List.length_take]; rw [inrange_eq]; omega)]

theorem memRead_length (st : Store) (a n : Nat) : (memRead st a n).length = inrange a n := by
  simp [memRead]

theorem memRead_getElem? (st : Store) (a n j : Nat) :
    (memRead st a n)[j]? = if j < inrange a n then some (readCell st (a + j)) else none := by
  by_cases h : j < inrange a n <;> simp [memRead, h]

/-- An access that starts above the file writes nothing (R88, D7). -/
theorem memWrite_of_outside (st : Store) {a : Nat} (h : 64 ≤ a) (bytes : List Byte) :
    memWrite st a bytes = st := by
  have : inrange a bytes.length = 0 := by rw [inrange_eq]; omega
  simp [memWrite, this, writeCells]

end Sys2Proof.Machine
end

