-- ==== Sys2Proof/Laws/State.lean ====
section
/-! SUPPORT. One lemma per field for each shared operation that is one record update: what it writes, and that it
leaves the field as it was. -/

namespace Sys2Proof.Machine

/-! ### `ctrlWrite` -/

@[simp] theorem ctrlWrite_phase (a l : Byte) (s : State) : (ctrlWrite a l s).phase = .awaitingDataCompletion := rfl
@[simp] theorem ctrlWrite_pendAddr (a l : Byte) (s : State) : (ctrlWrite a l s).pendAddr = a := rfl
@[simp] theorem ctrlWrite_pendLen (a l : Byte) (s : State) : (ctrlWrite a l s).pendLen = l := rfl
@[simp] theorem ctrlWrite_store (a l : Byte) (s : State) : (ctrlWrite a l s).store = s.store := rfl
@[simp] theorem ctrlWrite_rxValid (a l : Byte) (s : State) : (ctrlWrite a l s).rxValid = s.rxValid := rfl
@[simp] theorem ctrlWrite_rxData (a l : Byte) (s : State) : (ctrlWrite a l s).rxData = s.rxData := rfl
@[simp] theorem ctrlWrite_txData (a l : Byte) (s : State) : (ctrlWrite a l s).txData = s.txData := rfl
@[simp] theorem ctrlWrite_sessionOpen (a l : Byte) (s : State) : (ctrlWrite a l s).sessionOpen = s.sessionOpen := rfl
@[simp] theorem ctrlWrite_codec (a l : Byte) (s : State) : (ctrlWrite a l s).codec = s.codec := rfl
@[simp] theorem ctrlWrite_raw (a l : Byte) (s : State) : (ctrlWrite a l s).raw = s.raw := rfl
@[simp] theorem ctrlWrite_memOut (a l : Byte) (s : State) : (ctrlWrite a l s).memOut = s.memOut := rfl
@[simp] theorem ctrlWrite_config (a l : Byte) (s : State) : (ctrlWrite a l s).config = s.config := rfl
@[simp] theorem ctrlWrite_draws (a l : Byte) (s : State) : (ctrlWrite a l s).draws = s.draws := rfl
@[simp] theorem ctrlWrite_env (a l : Byte) (s : State) : (ctrlWrite a l s).env = s.env := rfl
@[simp] theorem ctrlWrite_agenda (a l : Byte) (s : State) : (ctrlWrite a l s).agenda = s.agenda := rfl

/-! ### `ctrlRead` -/

@[simp] theorem ctrlRead_phase (a l : Byte) (s : State) : (ctrlRead a l s).phase = s.phase := rfl
@[simp] theorem ctrlRead_pendAddr (a l : Byte) (s : State) : (ctrlRead a l s).pendAddr = s.pendAddr := rfl
@[simp] theorem ctrlRead_pendLen (a l : Byte) (s : State) : (ctrlRead a l s).pendLen = s.pendLen := rfl
@[simp] theorem ctrlRead_store (a l : Byte) (s : State) : (ctrlRead a l s).store = s.store := rfl
@[simp] theorem ctrlRead_rxValid (a l : Byte) (s : State) : (ctrlRead a l s).rxValid = s.rxValid := rfl
@[simp] theorem ctrlRead_rxData (a l : Byte) (s : State) : (ctrlRead a l s).rxData = s.rxData := rfl
@[simp] theorem ctrlRead_txData (a l : Byte) (s : State) :
    (ctrlRead a l s).txData = memRead s.store a.toNat l.toNat := rfl
@[simp] theorem ctrlRead_sessionOpen (a l : Byte) (s : State) : (ctrlRead a l s).sessionOpen = s.sessionOpen := rfl
@[simp] theorem ctrlRead_codec (a l : Byte) (s : State) : (ctrlRead a l s).codec = s.codec := rfl
@[simp] theorem ctrlRead_raw (a l : Byte) (s : State) : (ctrlRead a l s).raw = s.raw := rfl
@[simp] theorem ctrlRead_memOut (a l : Byte) (s : State) : (ctrlRead a l s).memOut = s.memOut := rfl
@[simp] theorem ctrlRead_config (a l : Byte) (s : State) : (ctrlRead a l s).config = s.config := rfl
@[simp] theorem ctrlRead_draws (a l : Byte) (s : State) : (ctrlRead a l s).draws = s.draws := rfl
@[simp] theorem ctrlRead_env (a l : Byte) (s : State) : (ctrlRead a l s).env = s.env := rfl
@[simp] theorem ctrlRead_agenda (a l : Byte) (s : State) : (ctrlRead a l s).agenda = s.agenda := rfl

/-! ### `ctrlIdent` -/

@[simp] theorem ctrlIdent_phase (s : State) : (ctrlIdent s).phase = s.phase := rfl
@[simp] theorem ctrlIdent_pendAddr (s : State) : (ctrlIdent s).pendAddr = s.pendAddr := rfl
@[simp] theorem ctrlIdent_pendLen (s : State) : (ctrlIdent s).pendLen = s.pendLen := rfl
@[simp] theorem ctrlIdent_store (s : State) : (ctrlIdent s).store = s.store := rfl
@[simp] theorem ctrlIdent_rxValid (s : State) : (ctrlIdent s).rxValid = s.rxValid := rfl
@[simp] theorem ctrlIdent_rxData (s : State) : (ctrlIdent s).rxData = s.rxData := rfl
@[simp] theorem ctrlIdent_txData (s : State) : (ctrlIdent s).txData = [s.config.periphAddr] := rfl
@[simp] theorem ctrlIdent_sessionOpen (s : State) : (ctrlIdent s).sessionOpen = s.sessionOpen := rfl
@[simp] theorem ctrlIdent_codec (s : State) : (ctrlIdent s).codec = s.codec := rfl
@[simp] theorem ctrlIdent_raw (s : State) : (ctrlIdent s).raw = s.raw := rfl
@[simp] theorem ctrlIdent_memOut (s : State) : (ctrlIdent s).memOut = s.memOut := rfl
@[simp] theorem ctrlIdent_config (s : State) : (ctrlIdent s).config = s.config := rfl
@[simp] theorem ctrlIdent_draws (s : State) : (ctrlIdent s).draws = s.draws := rfl
@[simp] theorem ctrlIdent_env (s : State) : (ctrlIdent s).env = s.env := rfl
@[simp] theorem ctrlIdent_agenda (s : State) : (ctrlIdent s).agenda = s.agenda := rfl

/-! ### `dataPhase` -/

@[simp] theorem dataPhase_phase (f : List Byte) (s : State) : (dataPhase f s).phase = .awaitingControl := rfl
@[simp] theorem dataPhase_pendAddr (f : List Byte) (s : State) : (dataPhase f s).pendAddr = s.pendAddr := rfl
@[simp] theorem dataPhase_pendLen (f : List Byte) (s : State) : (dataPhase f s).pendLen = s.pendLen := rfl
@[simp] theorem dataPhase_store (f : List Byte) (s : State) :
    (dataPhase f s).store = memWrite s.store s.pendAddr.toNat (dataBytes s f) := rfl
@[simp] theorem dataPhase_rxValid (f : List Byte) (s : State) : (dataPhase f s).rxValid = s.rxValid := rfl
@[simp] theorem dataPhase_rxData (f : List Byte) (s : State) : (dataPhase f s).rxData = s.rxData := rfl
@[simp] theorem dataPhase_txData (f : List Byte) (s : State) : (dataPhase f s).txData = s.txData := rfl
@[simp] theorem dataPhase_sessionOpen (f : List Byte) (s : State) : (dataPhase f s).sessionOpen = s.sessionOpen := rfl
@[simp] theorem dataPhase_codec (f : List Byte) (s : State) : (dataPhase f s).codec = s.codec := rfl
@[simp] theorem dataPhase_raw (f : List Byte) (s : State) : (dataPhase f s).raw = s.raw := rfl
@[simp] theorem dataPhase_memOut (f : List Byte) (s : State) : (dataPhase f s).memOut = s.memOut := rfl
@[simp] theorem dataPhase_config (f : List Byte) (s : State) : (dataPhase f s).config = s.config := rfl
@[simp] theorem dataPhase_draws (f : List Byte) (s : State) : (dataPhase f s).draws = s.draws := rfl
@[simp] theorem dataPhase_env (f : List Byte) (s : State) : (dataPhase f s).env = s.env := rfl
@[simp] theorem dataPhase_agenda (f : List Byte) (s : State) : (dataPhase f s).agenda = s.agenda := rfl

/-! ### `consumed` -/

@[simp] theorem consumed_phase (s : State) : (consumed s).phase = s.phase := rfl
@[simp] theorem consumed_pendAddr (s : State) : (consumed s).pendAddr = s.pendAddr := rfl
@[simp] theorem consumed_pendLen (s : State) : (consumed s).pendLen = s.pendLen := rfl
@[simp] theorem consumed_store (s : State) : (consumed s).store = s.store := rfl
@[simp] theorem consumed_rxValid (s : State) : (consumed s).rxValid = false := rfl
@[simp] theorem consumed_rxData (s : State) : (consumed s).rxData = s.rxData := rfl
@[simp] theorem consumed_txData (s : State) : (consumed s).txData = s.txData := rfl
@[simp] theorem consumed_sessionOpen (s : State) : (consumed s).sessionOpen = s.sessionOpen := rfl
@[simp] theorem consumed_codec (s : State) : (consumed s).codec = s.codec := rfl
@[simp] theorem consumed_raw (s : State) : (consumed s).raw = s.raw := rfl
@[simp] theorem consumed_memOut (s : State) : (consumed s).memOut = s.memOut := rfl
@[simp] theorem consumed_config (s : State) : (consumed s).config = s.config := rfl
@[simp] theorem consumed_draws (s : State) : (consumed s).draws = s.draws := rfl
@[simp] theorem consumed_env (s : State) : (consumed s).env = s.env := rfl
@[simp] theorem consumed_agenda (s : State) : (consumed s).agenda = s.agenda := rfl

/-! ### `outbound` -/

@[simp] theorem outbound_phase (n : Nat) (s : State) : (outbound n s).phase = s.phase := rfl
@[simp] theorem outbound_pendAddr (n : Nat) (s : State) : (outbound n s).pendAddr = s.pendAddr := rfl
@[simp] theorem outbound_pendLen (n : Nat) (s : State) : (outbound n s).pendLen = s.pendLen := rfl
@[simp] theorem outbound_store (n : Nat) (s : State) : (outbound n s).store = s.store := rfl
@[simp] theorem outbound_rxValid (n : Nat) (s : State) : (outbound n s).rxValid = s.rxValid := rfl
@[simp] theorem outbound_rxData (n : Nat) (s : State) : (outbound n s).rxData = s.rxData := rfl
@[simp] theorem outbound_txData (n : Nat) (s : State) : (outbound n s).txData = s.txData := rfl
@[simp] theorem outbound_sessionOpen (n : Nat) (s : State) : (outbound n s).sessionOpen = s.sessionOpen := rfl
@[simp] theorem outbound_codec (n : Nat) (s : State) : (outbound n s).codec = s.codec := rfl
@[simp] theorem outbound_raw (n : Nat) (s : State) : (outbound n s).raw = outboundBytes s n := rfl
@[simp] theorem outbound_memOut (n : Nat) (s : State) : (outbound n s).memOut = s.memOut := rfl
@[simp] theorem outbound_config (n : Nat) (s : State) : (outbound n s).config = s.config := rfl
@[simp] theorem outbound_draws (n : Nat) (s : State) : (outbound n s).draws = s.draws + n := rfl
@[simp] theorem outbound_env (n : Nat) (s : State) : (outbound n s).env = s.env := rfl
@[simp] theorem outbound_agenda (n : Nat) (s : State) : (outbound n s).agenda = s.agenda := rfl

/-! ### `openSession` -/

@[simp] theorem openSession_phase (s : State) : (openSession s).phase = .awaitingControl := rfl
@[simp] theorem openSession_pendAddr (s : State) : (openSession s).pendAddr = Config.freeByte (s.draws + 64) := rfl
@[simp] theorem openSession_pendLen (s : State) : (openSession s).pendLen = Config.freeByte (s.draws + 65) := rfl
@[simp] theorem openSession_store (s : State) : (openSession s).store = initStore s.draws := rfl
@[simp] theorem openSession_rxValid (s : State) : (openSession s).rxValid = false := rfl
@[simp] theorem openSession_rxData (s : State) : (openSession s).rxData = [] := rfl
@[simp] theorem openSession_txData (s : State) : (openSession s).txData = [] := rfl
@[simp] theorem openSession_sessionOpen (s : State) : (openSession s).sessionOpen = true := rfl
@[simp] theorem openSession_codec (s : State) : (openSession s).codec = s.codec := rfl
@[simp] theorem openSession_raw (s : State) : (openSession s).raw = s.raw := rfl
@[simp] theorem openSession_memOut (s : State) : (openSession s).memOut = s.memOut := rfl
@[simp] theorem openSession_config (s : State) : (openSession s).config = s.config := rfl
@[simp] theorem openSession_draws (s : State) : (openSession s).draws = s.draws + resetDraws := rfl
@[simp] theorem openSession_env (s : State) : (openSession s).env = s.env := rfl
@[simp] theorem openSession_agenda (s : State) : (openSession s).agenda = s.agenda := rfl

/-! ### `closeSession` -/

@[simp] theorem closeSession_phase (s : State) : (closeSession s).phase = s.phase := rfl
@[simp] theorem closeSession_pendAddr (s : State) : (closeSession s).pendAddr = s.pendAddr := rfl
@[simp] theorem closeSession_pendLen (s : State) : (closeSession s).pendLen = s.pendLen := rfl
@[simp] theorem closeSession_store (s : State) : (closeSession s).store = s.store := rfl
@[simp] theorem closeSession_rxValid (s : State) : (closeSession s).rxValid = s.rxValid := rfl
@[simp] theorem closeSession_rxData (s : State) : (closeSession s).rxData = s.rxData := rfl
@[simp] theorem closeSession_txData (s : State) : (closeSession s).txData = s.txData := rfl
@[simp] theorem closeSession_sessionOpen (s : State) : (closeSession s).sessionOpen = false := rfl
@[simp] theorem closeSession_codec (s : State) : (closeSession s).codec = s.codec := rfl
@[simp] theorem closeSession_raw (s : State) : (closeSession s).raw = s.raw := rfl
@[simp] theorem closeSession_memOut (s : State) : (closeSession s).memOut = s.memOut := rfl
@[simp] theorem closeSession_config (s : State) : (closeSession s).config = s.config := rfl
@[simp] theorem closeSession_draws (s : State) : (closeSession s).draws = s.draws := rfl
@[simp] theorem closeSession_env (s : State) : (closeSession s).env = s.env := rfl
@[simp] theorem closeSession_agenda (s : State) : (closeSession s).agenda = s.agenda := rfl

/-! ### `startCall` -/

@[simp] theorem startCall_phase (s : State) : (startCall s).phase = s.phase := rfl
@[simp] theorem startCall_pendAddr (s : State) : (startCall s).pendAddr = s.pendAddr := rfl
@[simp] theorem startCall_pendLen (s : State) : (startCall s).pendLen = s.pendLen := rfl
@[simp] theorem startCall_store (s : State) : (startCall s).store = s.store := rfl
@[simp] theorem startCall_rxValid (s : State) : (startCall s).rxValid = s.rxValid := rfl
@[simp] theorem startCall_rxData (s : State) : (startCall s).rxData = s.rxData := rfl
@[simp] theorem startCall_txData (s : State) : (startCall s).txData = s.txData := rfl
@[simp] theorem startCall_sessionOpen (s : State) : (startCall s).sessionOpen = s.sessionOpen := rfl
@[simp] theorem startCall_codec (s : State) : (startCall s).codec = CodecOut.blank := rfl
@[simp] theorem startCall_raw (s : State) : (startCall s).raw = s.raw := rfl
@[simp] theorem startCall_memOut (s : State) : (startCall s).memOut = s.memOut := rfl
@[simp] theorem startCall_config (s : State) : (startCall s).config = s.config := rfl
@[simp] theorem startCall_draws (s : State) : (startCall s).draws = s.draws := rfl
@[simp] theorem startCall_env (s : State) : (startCall s).env = s.env := rfl
@[simp] theorem startCall_agenda (s : State) : (startCall s).agenda = s.agenda := rfl

/-! ### `clampCall` -/

@[simp] theorem clampCall_phase (a : Byte) (n : Nat) (s : State) : (clampCall a n s).phase = s.phase := rfl
@[simp] theorem clampCall_pendAddr (a : Byte) (n : Nat) (s : State) : (clampCall a n s).pendAddr = s.pendAddr := rfl
@[simp] theorem clampCall_pendLen (a : Byte) (n : Nat) (s : State) : (clampCall a n s).pendLen = s.pendLen := rfl
@[simp] theorem clampCall_store (a : Byte) (n : Nat) (s : State) : (clampCall a n s).store = s.store := rfl
@[simp] theorem clampCall_rxValid (a : Byte) (n : Nat) (s : State) : (clampCall a n s).rxValid = s.rxValid := rfl
@[simp] theorem clampCall_rxData (a : Byte) (n : Nat) (s : State) : (clampCall a n s).rxData = s.rxData := rfl
@[simp] theorem clampCall_txData (a : Byte) (n : Nat) (s : State) : (clampCall a n s).txData = s.txData := rfl
@[simp] theorem clampCall_sessionOpen (a : Byte) (n : Nat) (s : State) :
    (clampCall a n s).sessionOpen = s.sessionOpen := rfl
@[simp] theorem clampCall_codec (a : Byte) (n : Nat) (s : State) :
    (clampCall a n s).codec = clampFlags a.toNat n s.codec := rfl
@[simp] theorem clampCall_raw (a : Byte) (n : Nat) (s : State) : (clampCall a n s).raw = s.raw := rfl
@[simp] theorem clampCall_memOut (a : Byte) (n : Nat) (s : State) : (clampCall a n s).memOut = s.memOut := rfl
@[simp] theorem clampCall_config (a : Byte) (n : Nat) (s : State) : (clampCall a n s).config = s.config := rfl
@[simp] theorem clampCall_draws (a : Byte) (n : Nat) (s : State) : (clampCall a n s).draws = s.draws := rfl
@[simp] theorem clampCall_env (a : Byte) (n : Nat) (s : State) : (clampCall a n s).env = s.env := rfl
@[simp] theorem clampCall_agenda (a : Byte) (n : Nat) (s : State) : (clampCall a n s).agenda = s.agenda := rfl

end Sys2Proof.Machine
end

