-- ==== Sys2Proof/Laws/Moves.lean ====
section
/-! SUPPORT. What the moves, the poll and a transaction can do, said once: the cases of each, and the fields none of
them writes. -/

namespace Sys2Proof.Machine

/-- The cases of a reserved direction (R81). -/
theorem ctrlRsvd_cases (a l : Byte) (s : State) :
    (s.config.reservedDirPolicy = .ignore ∧ ctrlRsvd a l s = s) ∨
    (s.config.reservedDirPolicy = .asWrite ∧ ctrlRsvd a l s = ctrlWrite a l s) ∨
    (s.config.reservedDirPolicy = .asRead ∧ a = identityAddr ∧ ctrlRsvd a l s = ctrlIdent s) ∨
    (s.config.reservedDirPolicy = .asRead ∧ a ≠ identityAddr ∧ ctrlRsvd a l s = ctrlRead a l s) := by
  unfold ctrlRsvd
  split <;> rename_i h
  · exact .inl ⟨h, rfl⟩
  · exact .inr (.inl ⟨h, rfl⟩)
  · split <;> rename_i ha
    · exact .inr (.inr (.inl ⟨h, ha, rfl⟩))
    · exact .inr (.inr (.inr ⟨h, ha, rfl⟩))

/-- The fields a frame's action writes: `phase`, the pending write, the register file, `tx_data` (R75). -/
theorem frameAction_frame (c : FrameClass) (s : State) :
    frameAction c s =
      { s with
        phase := (frameAction c s).phase
        pendAddr := (frameAction c s).pendAddr
        pendLen := (frameAction c s).pendLen
        store := (frameAction c s).store
        txData := (frameAction c s).txData } := by
  cases c with
  | ctrlRsvd a d l =>
    simp only [frameAction]
    obtain ⟨-, h⟩ | ⟨-, h⟩ | ⟨-, -, h⟩ | ⟨-, -, h⟩ := ctrlRsvd_cases a l s <;> rw [h] <;> rfl
  | _ => rfl

theorem pollSlot_of_not_ready {s : State} (h : pollReady s = false) : pollSlot s = s := by
  simp [pollSlot, h]

theorem pollSlot_of_ready {s : State} (h : pollReady s = true) :
    pollSlot s = frameAction (classify s.phase s.rxData) (consumed s) := by
  simp [pollSlot, h]

/-- The fields a poll writes. -/
theorem pollSlot_frame (s : State) :
    pollSlot s =
      { s with
        phase := (pollSlot s).phase
        pendAddr := (pollSlot s).pendAddr
        pendLen := (pollSlot s).pendLen
        store := (pollSlot s).store
        rxValid := (pollSlot s).rxValid
        txData := (pollSlot s).txData } := by
  cases h : pollReady s with
  | false => rw [pollSlot_of_not_ready h]
  | true =>
    rw [pollSlot_of_ready h]
    conv => lhs; rw [frameAction_frame]
    conv => rhs; rw [frameAction_frame]
    rfl

theorem deliver_of_closed {s : State} (h : s.sessionOpen = false) (bytes : List Byte) :
    deliver bytes s = s := by simp [deliver, h]

theorem deliver_of_open {s : State} (h : s.sessionOpen = true) (bytes : List Byte) :
    deliver bytes s = { s with rxData := bytes.take s.config.rxCapacity, rxValid := true } := by
  simp [deliver, h]

/-- The fields a delivery writes. -/
theorem deliver_frame (bytes : List Byte) (s : State) :
    deliver bytes s =
      { s with rxData := (deliver bytes s).rxData, rxValid := (deliver bytes s).rxValid } := by
  unfold deliver
  split <;> rfl

/-- What no move of another agent writes: the codec's outputs, the receive region, the ports and the inputs of the
model, the parameters. -/
structure SameOutside (s t : State) : Prop where
  codec : t.codec = s.codec
  raw : t.raw = s.raw
  memOut : t.memOut = s.memOut
  config : t.config = s.config
  env : t.env = s.env
  agenda : t.agenda = s.agenda

theorem SameOutside.refl (s : State) : SameOutside s s := ⟨rfl, rfl, rfl, rfl, rfl, rfl⟩

theorem SameOutside.trans {s t u : State} (h : SameOutside s t) (k : SameOutside t u) : SameOutside s u :=
  ⟨k.codec.trans h.codec, k.raw.trans h.raw, k.memOut.trans h.memOut, k.config.trans h.config,
    k.env.trans h.env, k.agenda.trans h.agenda⟩

theorem pollSlot_sameOutside (s : State) : SameOutside s (pollSlot s) := by
  rw [pollSlot_frame]; exact ⟨rfl, rfl, rfl, rfl, rfl, rfl⟩

theorem deliver_sameOutside (bytes : List Byte) (s : State) : SameOutside s (deliver bytes s) := by
  rw [deliver_frame]; exact ⟨rfl, rfl, rfl, rfl, rfl, rfl⟩

theorem applyMove_sameOutside (m : Move) (s : State) : SameOutside s (applyMove m s) := by
  cases m with
  | poll => exact pollSlot_sameOutside s
  | inbound bytes => exact deliver_sameOutside bytes s
  | hostOpen => exact ⟨rfl, rfl, rfl, rfl, rfl, rfl⟩
  | hostClose => exact ⟨rfl, rfl, rfl, rfl, rfl, rfl⟩

theorem applyMoves_sameOutside (ms : List Move) (s : State) : SameOutside s (applyMoves ms s) := by
  induction ms generalizing s with
  | nil => exact .refl s
  | cons m ms ih => exact (applyMove_sameOutside m s).trans (ih _)

theorem outboundBytes_length (s : State) (n : Nat) : (outboundBytes s n).length = n := by
  simp [outboundBytes]

theorem outboundBytes_getElem? (s : State) (n j : Nat) :
    (outboundBytes s n)[j]? = if j < n then some (outboundByte s s.draws j) else none := by
  by_cases h : j < n <;> simp [outboundBytes, h]

end Sys2Proof.Machine
end

