-- ==== Sys2Proof/Laws/Transactions.lean ====
section
/-! SUPPORT. What a gap of polls and a transaction of two frames can do, said once. -/

namespace Sys2Proof.Machine

@[simp] theorem frameAction_rxValid (c : FrameClass) (s : State) : (frameAction c s).rxValid = s.rxValid := by
  rw [frameAction_frame]

@[simp] theorem frameAction_sessionOpen (c : FrameClass) (s : State) :
    (frameAction c s).sessionOpen = s.sessionOpen := by rw [frameAction_frame]

/-- After a poll the slot of an open session is empty (R74). -/
theorem pollReady_pollSlot (s : State) : pollReady (pollSlot s) = false := by
  cases h : pollReady s with
  | false => rw [pollSlot_of_not_ready h, h]
  | true => rw [pollSlot_of_ready h]; simp [pollReady]

/-- With nothing to process, a gap of polls does nothing (R74). -/
theorem applyMoves_onlyPolls {g : List Move} {s : State} (hg : OnlyPolls g) (h : pollReady s = false) :
    applyMoves g s = s := by
  induction g with
  | nil => rfl
  | cons m ms ih =>
    obtain rfl : m = .poll := hg m (List.mem_cons_self ..)
    have hs : applyMove .poll s = s := pollSlot_of_not_ready h
    rw [applyMoves, hs]
    exact ih fun m hm => hg m (List.mem_cons_of_mem _ hm)

/-- A gap in which only the PSM moves and it polls at least once is one poll (R74). -/
theorem applyMoves_polled {g : List Move} (s : State) (hg : Polled g) : applyMoves g s = pollSlot s := by
  obtain ⟨honly, hmem⟩ := hg
  cases g with
  | nil => cases hmem
  | cons m ms =>
    obtain rfl : m = .poll := honly m (List.mem_cons_self ..)
    exact applyMoves_onlyPolls (fun m hm => honly m (List.mem_cons_of_mem _ hm)) (pollReady_pollSlot s)

theorem performFrame_w (bytes : List Byte) (s : State) : performFrame (.w bytes) s = deliver bytes s := rfl

theorem performFrame_r (n : Nat) (s : State) : performFrame (.r n) s = outbound n s := rfl

theorem headD_eq_gapAt (e : CallEnv) : e.gaps.headD [] = gapAt e 0 := by
  unfold gapAt; cases e.gaps <;> rfl

theorem tail_headD_eq_gapAt (e : CallEnv) : e.gaps.tail.headD [] = gapAt e 1 := by
  unfold gapAt
  match e.gaps with
  | [] => rfl
  | [_] => rfl
  | _ :: _ :: _ => rfl

theorem tail_tail_headD_eq_gapAt (e : CallEnv) : e.gaps.tail.tail.headD [] = gapAt e 2 := by
  unfold gapAt
  match e.gaps with
  | [] => rfl
  | [_] => rfl
  | [_, _] => rfl
  | _ :: _ :: _ :: _ => rfl

/-- A transaction of two frames both of which the transport performs: each frame after the moves of its gap, then the
moves of the last gap. -/
theorem emit_pair_of_performed {s : State} {f g : BusFrame} (h : performedFrames s.env [f, g] = [f, g]) :
    emit [f, g] s =
      applyMoves (gapAt s.env 2) (performFrame g (applyMoves (gapAt s.env 1) (performFrame f
        (applyMoves (gapAt s.env 0) { s with codec := { s.codec with txn := [f, g] } })))) := by
  simp only [emit, h, performFrames, headD_eq_gapAt, tail_headD_eq_gapAt, tail_tail_headD_eq_gapAt]

theorem performedFrames_of_success {e : CallEnv} (h : e.failAfter = none) (t : List BusFrame) :
    performedFrames e t = t := by
  simp only [performedFrames, h]

/-- A failure after at least as many frames as there are has performed them all (R115). -/
theorem performedFrames_of_length_le {e : CallEnv} {k : Nat} (h : e.failAfter = some k) {t : List BusFrame}
    (hk : t.length ≤ k) : performedFrames e t = t := by
  simp only [performedFrames, h, List.take_of_length_le hk]

/-- A transaction of two frames that the transport completes. -/
theorem emit_pair {s : State} (h : s.env.failAfter = none) (f g : BusFrame) :
    emit [f, g] s =
      applyMoves (gapAt s.env 2) (performFrame g (applyMoves (gapAt s.env 1) (performFrame f
        (applyMoves (gapAt s.env 0) { s with codec := { s.codec with txn := [f, g] } })))) :=
  emit_pair_of_performed (performedFrames_of_success h _)

/-- What no frame of a transaction and no move between them writes: the codec's outputs and the model's inputs. -/
structure SameCall (s t : State) : Prop where
  codec : t.codec = s.codec
  memOut : t.memOut = s.memOut
  config : t.config = s.config
  env : t.env = s.env
  agenda : t.agenda = s.agenda

theorem SameCall.refl (s : State) : SameCall s s := ⟨rfl, rfl, rfl, rfl, rfl⟩

theorem SameCall.trans {s t u : State} (h : SameCall s t) (k : SameCall t u) : SameCall s u :=
  ⟨k.codec.trans h.codec, k.memOut.trans h.memOut, k.config.trans h.config, k.env.trans h.env,
    k.agenda.trans h.agenda⟩

theorem SameOutside.call {s t : State} (h : SameOutside s t) : SameCall s t :=
  ⟨h.codec, h.memOut, h.config, h.env, h.agenda⟩

theorem performFrame_sameCall (f : BusFrame) (s : State) : SameCall s (performFrame f s) := by
  cases f with
  | w bytes => exact (deliver_sameOutside bytes s).call
  | r n => exact ⟨rfl, rfl, rfl, rfl, rfl⟩

theorem performFrames_sameCall (fs : List BusFrame) (gaps : List (List Move)) (s : State) :
    SameCall s (performFrames fs gaps s) := by
  induction fs generalizing gaps s with
  | nil => exact (applyMoves_sameOutside _ s).call
  | cons f fs ih =>
    exact ((applyMoves_sameOutside _ s).call.trans (performFrame_sameCall f _)).trans (ih _ _)

/-- Emission writes the transaction on the codec's output and nothing else of the codec or the model's inputs. -/
theorem emit_sameCall (t : List BusFrame) (s : State) :
    SameCall { s with codec := { s.codec with txn := t } } (emit t s) :=
  performFrames_sameCall _ _ _

/-- The receive region after a control frame and an `R(n)` frame that the transport completes holds `n` bytes
(R70, R84). -/
theorem emit_read_raw_length {s : State} (h : s.env.failAfter = none) (b : List Byte) (n : Nat) :
    (emit [.w b, .r n] s).raw.length = n := by
  rw [emit_pair h, (applyMoves_sameOutside _ _).raw, performFrame_r, outbound_raw, outboundBytes_length]

theorem decodeRead_length {c : Config} {raw : List Byte} {l : Nat} (h : raw.length = l + c.readOffset) :
    (decodeRead c raw l).length = l := by
  rw [decodeRead, slice_length]; omega

end Sys2Proof.Machine
end

