-- ==== Sys2Proof/Laws/Step.lean ====
section
/-! SUPPORT. What a step can do, said once: the inversion of `step` by the request it takes, and which instructions
answer a next state. -/

namespace Sys2Proof.Machine

theorem exec_poll (s : State) : exec .poll s = .next (pollSlot s) := rfl

/-- Each class of frame runs as its instruction (R74). -/
theorem exec_frameClass (c : FrameClass) (s : State) : exec c.instr s = .next (frameAction c s) := by
  cases c <;> rfl

theorem stepN_succ_of_next {s t : State} (h : step s = .next t) (k : Nat) : stepN (k + 1) s = stepN k t := by
  simp only [stepN, h]

/-- A run that answers a next state takes its first step to a next state. -/
theorem stepN_succ_next {k : Nat} {s t : State} (h : stepN (k + 1) s = .next t) :
    ∃ u, step s = .next u ∧ stepN k u = .next t := by
  rw [stepN] at h
  match hs : step s with
  | .next u => rw [hs] at h; exact ⟨u, rfl, h⟩
  | .refused r => rw [hs] at h; cases h

theorem exec_move (m : Move) (s : State) : exec m.instr s = .next (applyMove m s) := by
  cases m <;> rfl

theorem step_of_empty {s : State} (h : s.agenda = []) : step s = .next (pollSlot s) := by
  simp only [step, nextInstr, takeRequest, h, exec_poll]

theorem step_of_move {s : State} {m : Move} {rest : List Request} (h : s.agenda = .move m :: rest) :
    step s = .next (applyMove m { s with agenda := rest }) := by
  simp only [step, nextInstr, takeRequest, h, Request.instr, exec_move]

theorem step_of_outbound {s : State} {n : Nat} {rest : List Request} (h : s.agenda = .outbound n :: rest) :
    step s = .next (outbound n { s with agenda := rest }) := by
  simp only [step, nextInstr, takeRequest, h, Request.instr]; rfl

theorem step_of_call {s : State} {c : Call} {e : CallEnv} {rest : List Request}
    (h : s.agenda = .call c e :: rest) :
    step s = exec c.instr { s with agenda := rest, env := e } := by
  simp only [step, nextInstr, takeRequest, h, Request.instr]

/-- The cases of a step that answers a next state. -/
theorem step_cases {s t : State} (h : step s = .next t) :
    (s.agenda = [] ∧ t = pollSlot s) ∨
    (∃ m rest, s.agenda = .move m :: rest ∧ t = applyMove m { s with agenda := rest }) ∨
    (∃ n rest, s.agenda = .outbound n :: rest ∧ t = outbound n { s with agenda := rest }) ∨
    (∃ c e rest, s.agenda = .call c e :: rest ∧
      exec c.instr { s with agenda := rest, env := e } = .next t) := by
  match ha : s.agenda with
  | [] =>
    rw [step_of_empty ha] at h
    exact .inl ⟨rfl, (Host.Outcome.next.inj h).symm⟩
  | .move m :: rest =>
    rw [step_of_move ha] at h
    exact .inr (.inl ⟨m, rest, rfl, (Host.Outcome.next.inj h).symm⟩)
  | .outbound n :: rest =>
    rw [step_of_outbound ha] at h
    exact .inr (.inr (.inl ⟨n, rest, rfl, (Host.Outcome.next.inj h).symm⟩))
  | .call c e :: rest =>
    rw [step_of_call ha] at h
    exact .inr (.inr (.inr ⟨c, e, rest, rfl, h⟩))

end Sys2Proof.Machine
end

