-- ==== Sys2Proof/Laws/Calls.lean ====
section
/-! SUPPORT. What a controller call does, said once: how it begins, its flags, and how it ends. -/

namespace Sys2Proof.Machine

theorem transportFails_of_success {s : State} (h : s.env.failAfter = none) : transportFails s = false := by
  simp only [transportFails, h]; rfl

theorem transportFails_of_failure {s : State} (h : s.env.failAfter ≠ none) : transportFails s = true := by
  unfold transportFails
  cases hf : s.env.failAfter with
  | none => exact absurd hf h
  | some k => rfl

/-- The warning of a length (R66, R94). -/
theorem overflowWarning_eq (a n : Nat) :
    overflowWarning a n = if 64 < a + n then some ⟨n, 64 - a⟩ else none := by
  simp only [overflowWarning, overflows, decide_eq_true_eq, clampedLen_eq]
  by_cases h : 64 < a + n
  · rw [if_pos h, if_pos h, show min n (64 - a) = 64 - a by omega]
  · rw [if_neg h, if_neg h]

/-- The end of a write call writes its status and nothing else. -/
theorem finishWrite_eq (failed : Bool) (s : State) :
    finishWrite failed s =
      { s with codec := { s.codec with status := some (if failed then .transportFailure else .ok) } } := by
  cases failed <;> rfl

/-- The end of a read call writes its status and, on success, its data. -/
theorem finishRead_eq (failed : Bool) (l : Nat) (s : State) :
    finishRead failed l s =
      { s with
        codec := { s.codec with
          status := some (if failed then .transportFailure else .ok)
          dataOut := if failed then s.codec.dataOut else some (decodeRead s.config s.raw l) } } := by
  cases failed <;> rfl

/-- The decoder of a buffer of the right size drops the offset (R70). -/
theorem decodeRead_eq_drop {c : Config} {raw : List Byte} {l : Nat} (h : raw.length = l + c.readOffset) :
    decodeRead c raw l = raw.drop c.readOffset := by
  rw [decodeRead, slice, List.take_of_length_le (by omega)]

/-- A write call with a valid address and enough payload. -/
theorem exec_opWrite_of_valid {a : Byte} {n : Nat} {p : List Byte} (s : State) (ha : a.toNat ≤ 63)
    (hp : clampedLen a.toNat n ≤ p.length) :
    exec (.opWrite a n p) s =
      .next (finishWrite (transportFails s)
        (emit (writeTxn a (lengthByte (clampedLen a.toNat n)) p) (clampCall a n (startCall s)))) := by
  simp only [exec, execOpWrite, (validAddr_iff a).2 ha, if_true, if_pos hp]

/-- A read call with a valid address. -/
theorem exec_opRead_of_valid {a : Byte} (n : Nat) (s : State) (ha : a.toNat ≤ 63) :
    exec (.opRead a n) s =
      .next (finishRead (transportFails s) (clampedLen a.toNat n)
        (emit (readTxn s.config a (lengthByte (clampedLen a.toNat n))) (clampCall a n (startCall s)))) := by
  simp only [exec, execOpRead, (validAddr_iff a).2 ha, if_true]

/-- A frame of at most 64 bytes that reaches an open session is polled as it was sent (R22, R74, R83). -/
theorem pollSlot_deliver {s : State} (ho : s.sessionOpen = true) {f : List Byte} (hf : f.length ≤ 64) :
    pollSlot (deliver f s) =
      frameAction (classify s.phase f) { s with rxData := f, rxValid := false } := by
  rw [deliver_of_open ho, List.take_of_length_le (by unfold Config.rxCapacity; omega),
    pollSlot_of_ready (by simp [pollReady, ho])]
  rfl

end Sys2Proof.Machine
end

