-- ==== Sys2Proof/Laws/Decode.lean ====
section
/-! SUPPORT. The lines of the classification (30_encoding.md R61), each over the shape of the frame it is about. -/

namespace Sys2Proof

theorem classify_nil (ph : Phase) : classify ph [] = .none := by cases ph <;> rfl

theorem classify_data {f : List Byte} (h : f ≠ []) : classify .awaitingDataCompletion f = .data f := by
  cases f with
  | nil => exact absurd rfl h
  | cons b f => rfl

theorem classify_short {f : List Byte} (h1 : 1 ≤ f.length) (h2 : f.length ≤ 2) :
    classify .awaitingControl f = .ctrlShort f := by
  match f with
  | [_] => rfl
  | [_, _] => rfl

theorem classify_ctrlWrite (a l : Byte) (rest : List Byte) :
    classify .awaitingControl (a :: dirWrite :: l :: rest) = .ctrlWrite a l := rfl

theorem classify_ctrlIdent (l : Byte) (rest : List Byte) :
    classify .awaitingControl (identityAddr :: dirRead :: l :: rest) = .ctrlIdent l := rfl

theorem classify_ctrlRead {a : Byte} (h : a ≠ identityAddr) (l : Byte) (rest : List Byte) :
    classify .awaitingControl (a :: dirRead :: l :: rest) = .ctrlRead a l := by
  simp only [classify, if_neg h]; rfl

theorem classify_ctrlRsvd {d : Byte} (h0 : d ≠ dirWrite) (h1 : d ≠ dirRead) (a l : Byte) (rest : List Byte) :
    classify .awaitingControl (a :: d :: l :: rest) = .ctrlRsvd a d l := by
  simp only [classify, if_neg h0, if_neg h1]

/-- A control frame has three bytes or more, then whatever follows. -/
theorem eq_control_of_length {f : List Byte} (h : 3 ≤ f.length) : ∃ a d l rest, f = a :: d :: l :: rest := by
  match f with
  | a :: d :: l :: rest => exact ⟨a, d, l, rest, rfl⟩

end Sys2Proof
end

