-- ==== Sys2Proof/Laws/PerInstr.lean ====
section
/-! SUPPORT. The family FrameFits: the frame of a well-formed instruction fits the inbound slot, for every instance
of the block (10_state.md R22: `RX_CAPACITY` is at least 64). -/

namespace Sys2Proof.Laws.FrameFits

/-- Every frame that encodes a well-formed `i` has at most `RX_CAPACITY` bytes. -/
def Statement (i : Instr) : Prop :=
  ∀ (c : Config) (f : List Byte), i.wellFormed c = true → encode i = some f → f.length ≤ c.rxCapacity

theorem le_of_length_three {c : Config} {a d l : Byte} {f : List Byte} (h : some [a, d, l] = some f) :
    f.length ≤ c.rxCapacity := by
  cases h; simp only [Config.rxCapacity, List.length_cons, List.length_nil]; omega

theorem pNone : Statement .pNone := fun _ _ _ h => by cases h; exact Nat.zero_le _
theorem pData (f : List Byte) : Statement (.pData f) := fun _ _ w h => by
  cases h; simp only [Instr.wellFormed, Bool.and_eq_true, decide_eq_true_eq] at w; exact w.2
theorem pCtrlShort (f : List Byte) : Statement (.pCtrlShort f) := fun _ _ w h => by
  cases h
  simp only [Instr.wellFormed, Bool.and_eq_true, decide_eq_true_eq] at w
  simp only [Config.rxCapacity]; omega
theorem pCtrlWrite (a l : Byte) : Statement (.pCtrlWrite a l) := fun _ _ _ h => le_of_length_three h
theorem pCtrlIdent (l : Byte) : Statement (.pCtrlIdent l) := fun _ _ _ h => le_of_length_three h
theorem pCtrlRead (a l : Byte) : Statement (.pCtrlRead a l) := fun _ _ _ h => le_of_length_three h
theorem pCtrlRsvd (a d l : Byte) : Statement (.pCtrlRsvd a d l) := fun _ _ _ h => le_of_length_three h
theorem poll : Statement .poll := fun _ _ _ h => by cases h
theorem busInbound (b : List Byte) : Statement (.busInbound b) := fun _ _ _ h => by cases h
theorem busRead (n : Nat) : Statement (.busRead n) := fun _ _ _ h => by cases h
theorem sessionOpen : Statement .sessionOpen := fun _ _ _ h => by cases h
theorem sessionClose : Statement .sessionClose := fun _ _ _ h => by cases h
theorem memRead (a n : Byte) : Statement (.memRead a n) := fun _ _ _ h => by cases h
theorem memWrite (a : Byte) (b : List Byte) : Statement (.memWrite a b) := fun _ _ _ h => by cases h
theorem codecValidate (a : Byte) : Statement (.codecValidate a) := fun _ _ _ h => by cases h
theorem codecClamp (a : Byte) (n : Nat) : Statement (.codecClamp a n) := fun _ _ _ h => by cases h
theorem encWrite (a l : Byte) (p : List Byte) : Statement (.encWrite a l p) := fun _ _ _ h => le_of_length_three h
theorem encRead (a l : Byte) : Statement (.encRead a l) := fun _ _ _ h => le_of_length_three h
theorem encIdent : Statement .encIdent := fun _ _ _ h => le_of_length_three h
theorem decRead (raw : List Byte) (l : Nat) : Statement (.decRead raw l) := fun _ _ _ h => by cases h
theorem opWrite (a : Byte) (n : Nat) (p : List Byte) : Statement (.opWrite a n p) := fun _ _ _ h => by cases h
theorem opRead (a : Byte) (n : Nat) : Statement (.opRead a n) := fun _ _ _ h => by cases h
theorem opIdent : Statement .opIdent := fun _ _ _ h => by cases h

end Sys2Proof.Laws.FrameFits
end

