-- ==== Sys2Proof/Laws/Scheduling.lean ====
section
/-! SUPPORT. What the named scheduling assumptions of 00_scope.md R5 give: along a run, for the transaction of a call,
and in a gap where only the PSM moves. -/

namespace Sys2Proof.Machine

/-! ### Polls -/

@[simp] theorem mayArrive_eq_true (s : State) : mayArrive s = true ↔ pollReady s = false := by
  simp [mayArrive]

/-- A second poll finds nothing (R74). -/
@[simp] theorem pollSlot_pollSlot (s : State) : pollSlot (pollSlot s) = pollSlot s :=
  pollSlot_of_not_ready (pollReady_pollSlot s)

theorem frameAction_outside (c : FrameClass) (s : State) (o : CodecOut) (e : CallEnv) (g : List Request) :
    frameAction c { s with codec := o, env := e, agenda := g } =
      { frameAction c s with codec := o, env := e, agenda := g } := by
  cases c with
  | ctrlRsvd a d l =>
    simp only [frameAction, ctrlRsvd]
    split
    · rfl
    · rfl
    · split <;> rfl
  | _ => rfl

/-- A poll neither reads nor writes the outputs of a call, its environment and the agenda. -/
theorem pollSlot_outside (s : State) (o : CodecOut) (e : CallEnv) (g : List Request) :
    pollSlot { s with codec := o, env := e, agenda := g } =
      { pollSlot s with codec := o, env := e, agenda := g } := by
  cases h : pollReady s with
  | false =>
    rw [pollSlot_of_not_ready h]
    exact pollSlot_of_not_ready h
  | true =>
    rw [pollSlot_of_ready h]
    exact (pollSlot_of_ready (s := { s with codec := o, env := e, agenda := g }) h).trans
      (frameAction_outside _ (consumed s) o e g)

theorem pollSlot_agenda (s : State) (g : List Request) :
    pollSlot { s with agenda := g } = { pollSlot s with agenda := g } := by
  have h := pollSlot_outside s s.codec s.env g
  have k := pollSlot_sameOutside s
  rw [← k.codec, ← k.env] at h
  exact k.codec ▸ k.env ▸ h

/-- A gap in which only the PSM moves is one poll or nothing (R74). -/
theorem applyMoves_onlyPolls_cases {g : List Move} (s : State) (hg : OnlyPolls g) :
    (Move.poll ∈ g ∧ applyMoves g s = pollSlot s) ∨ (Move.poll ∉ g ∧ applyMoves g s = s) := by
  by_cases h : Move.poll ∈ g
  · exact .inl ⟨h, applyMoves_polled s ⟨hg, h⟩⟩
  · match g, hg, h with
    | [], _, h => exact .inr ⟨h, rfl⟩
    | m :: ms, hg, h => exact absurd (hg m (List.mem_cons_self ..) ▸ List.mem_cons_self ..) h

/-- Polls before a poll are that poll. -/
theorem pollSlot_applyMoves {g : List Move} (s : State) (hg : OnlyPolls g) :
    pollSlot (applyMoves g s) = pollSlot s := by
  obtain ⟨-, h⟩ | ⟨-, h⟩ := applyMoves_onlyPolls_cases s hg <;> rw [h]
  exact pollSlot_pollSlot s

/-- Polls after which a frame may arrive have polled what waited (R113). -/
theorem applyMoves_of_mayArrive {g : List Move} {s : State} (hg : OnlyPolls g)
    (h : mayArrive (applyMoves g s) = true) : applyMoves g s = pollSlot s := by
  rw [← pollSlot_applyMoves s hg, pollSlot_of_not_ready ((mayArrive_eq_true _).1 h)]

theorem movesPolled_onlyPolls {g : List Move} (s : State) (hg : OnlyPolls g) : movesPolled g s = true := by
  induction g generalizing s with
  | nil => rfl
  | cons m ms ih =>
    obtain rfl : m = .poll := hg m (List.mem_cons_self ..)
    exact ih _ fun m hm => hg m (List.mem_cons_of_mem _ hm)

theorem polled_of_head {g : List Move} (hg : OnlyPolls g) (h : g.head? = some .poll) : Polled g :=
  ⟨hg, List.mem_of_head? h⟩

/-! ### One call -/

/-- The transaction of a call, as its output shows it: the scheduling assumptions speak of what is emitted. -/
theorem exec_call_txn {c : Call} {s t : State} (h : exec c.instr s = .next t) :
    t.codec.txn = (callTxn s.config c).getD [] := by
  cases c with
  | write a n p =>
    simp only [Call.instr, exec, execOpWrite] at h
    split at h <;> rename_i hv
    · split at h
      · cases h
        rw [callTxn, if_pos hv, finishWrite_eq]
        simp only [(emit_sameCall _ _).codec, Option.getD_some]
      · cases h
    · cases h
      rw [callTxn, if_neg hv]
      rfl
  | read a n =>
    simp only [Call.instr, exec, execOpRead] at h
    split at h <;> rename_i hv <;> cases h
    · rw [callTxn, if_pos hv, finishRead_eq]
      simp only [(emit_sameCall _ _).codec, Option.getD_some]
    · rw [callTxn, if_neg hv]
      rfl
  | identity =>
    simp only [Call.instr, exec, execOpIdent] at h
    cases h
    rw [finishRead_eq]
    simp only [(emit_sameCall _ _).codec, callTxn, Option.getD_some]

/-- Two `W` frames with only polls between them: each is performed after the slot was polled (R113). -/
theorem framesPolled_pair {e : CallEnv} (he : Undisturbed e) (b c : List Byte) (s : State) :
    framesPolled [.w b, .w c] e.gaps s = true ↔
      mayArrive (applyMoves (gapAt e 0) s) = true ∧
      mayArrive (applyMoves (gapAt e 1) (deliver b (applyMoves (gapAt e 0) s))) = true := by
  simp only [framesPolled, headD_eq_gapAt, tail_headD_eq_gapAt, tail_tail_headD_eq_gapAt, framePolled,
    performFrame_w, movesPolled_onlyPolls _ he.1, movesPolled_onlyPolls _ he.2.1,
    movesPolled_onlyPolls _ he.2.2, Bool.true_and, Bool.and_true, Bool.and_eq_true]

/-- A `W` frame before an `R` frame with only polls in the gap before it: the slot was polled before the `W`. -/
theorem mayArrive_of_framesPolled {e : CallEnv} {f : BusFrame} {b : List Byte} {s : State}
    (h : framesPolled [.w b, f] e.gaps s = true) : mayArrive (applyMoves (gapAt e 0) s) = true := by
  simp only [framesPolled, headD_eq_gapAt, framePolled, Bool.and_eq_true] at h
  exact h.1.2

/-- A serviced `W`, `R` pair: the frame reaches an open session and the gap after it begins with a poll (R114). -/
theorem framesServiced_pair (e : CallEnv) (b : List Byte) (n : Nat) (s : State) :
    framesServiced [.w b, .r n] e.gaps s = true ↔
      (applyMoves (gapAt e 0) s).sessionOpen = true ∧ (gapAt e 1).head? = some .poll := by
  simp only [framesServiced, headD_eq_gapAt, tail_headD_eq_gapAt, Bool.and_eq_true, beq_iff_eq]

/-- The frame that a poll right after its arrival consumes is that frame (R74, R83). -/
theorem applyMoves_serviced {g : List Move} {s : State} (b : List Byte) (ho : s.sessionOpen = true)
    (h : g.head? = some .poll) :
    applyMoves g (deliver b s) =
      applyMoves g.tail
        (frameAction (classify s.phase (b.take s.config.rxCapacity))
          { s with rxData := b.take s.config.rxCapacity, rxValid := false }) := by
  match g, h with
  | .poll :: ms, _ =>
    rw [applyMoves, List.tail_cons, deliver_of_open ho]
    exact congrArg _ (pollSlot_of_ready (by simp [pollReady, ho]))

/-! ### A run -/

theorem stepN_add (j k : Nat) {s t : State} (h : stepN j s = .next t) : stepN (j + k) s = stepN k t := by
  induction j generalizing s with
  | zero => cases h; rw [Nat.zero_add]
  | succ j ih =>
    obtain ⟨u, hs, hu⟩ := stepN_succ_next h
    rw [show j + 1 + k = j + k + 1 by omega, stepN_succ_of_next hs, ih hu]

/-- What a check along a run says of its first request and of the rest of the run. -/
theorem alongRun_request {check : Request → State → Bool} {k : Nat} {s t : State} {r : Request}
    {rest : List Request} (ha : s.agenda = r :: rest) (hs : step s = .next t) :
    alongRun check (k + 1) s = (check r (takeRequest s) && alongRun check k t) := by
  simp only [alongRun, ha, hs]

/-- A check along a run holds along what is left of it after its first steps. -/
theorem alongRun_rest {check : Request → State → Bool} (j k : Nat) {s t : State}
    (h : alongRun check (j + k) s = true) (ht : stepN j s = .next t) : alongRun check k t = true := by
  induction j generalizing s with
  | zero => cases ht; rwa [Nat.zero_add] at h
  | succ j ih =>
    obtain ⟨u, hs, hu⟩ := stepN_succ_next ht
    rw [show j + 1 + k = j + k + 1 by omega] at h
    simp only [alongRun, hs, Bool.and_eq_true] at h
    exact ih h.2 hu

/-- Polls asked one after another are served, and a poll after them finds what a poll instead of them finds (R74). -/
theorem stepN_polls (m : Nat) {s : State} {rest : List Request}
    (h : s.agenda = List.replicate m (.move .poll) ++ rest) :
    ∃ t, stepN m s = .next t ∧ t.agenda = rest ∧ pollSlot t = pollSlot { s with agenda := rest } := by
  induction m generalizing s with
  | zero =>
    obtain rfl : s.agenda = rest := h
    exact ⟨s, rfl, rfl, rfl⟩
  | succ m ih =>
    rw [List.replicate_succ, List.cons_append] at h
    have hs := step_of_move h
    obtain ⟨t, ht, hr, hp⟩ := ih (applyMove_sameOutside .poll
      { s with agenda := List.replicate m (.move .poll) ++ rest }).agenda
    refine ⟨t, (stepN_succ_of_next hs m).trans ht, hr, hp.trans ?_⟩
    have h1 := pollSlot_agenda s (List.replicate m (Request.move .poll) ++ rest)
    exact (pollSlot_agenda _ rest).trans (by
      rw [applyMove, pollSlot_pollSlot, h1]; exact (pollSlot_agenda s rest).symm)

end Sys2Proof.Machine
end

