-- ==== Sys2Proof/Laws/Storing.lean ====
section
/-! SUPPORT. The register file changes only where `moveStores` says (10_state.md R20, 41_protocol_fsm.md R86 (5)): by
move, by gap, by transaction and by call. -/

namespace Sys2Proof.Machine

/-- A delivery neither reads nor writes the outputs of a call. -/
theorem deliver_codec (b : List Byte) (s : State) (o : CodecOut) :
    deliver b { s with codec := o } = { deliver b s with codec := o } := by
  unfold deliver
  split <;> rfl

theorem pollSlot_codec (s : State) (o : CodecOut) :
    pollSlot { s with codec := o } = { pollSlot s with codec := o } := by
  have h := pollSlot_outside s o s.env s.agenda
  have k := pollSlot_sameOutside s
  rw [← k.env, ← k.agenda] at h
  exact k.env ▸ k.agenda ▸ h

/-- No move reads or writes the outputs of a call. -/
theorem applyMove_codec (m : Move) (s : State) (o : CodecOut) :
    applyMove m { s with codec := o } = { applyMove m s with codec := o } := by
  cases m with
  | poll => exact pollSlot_codec s o
  | inbound b => exact deliver_codec b s o
  | hostOpen => rfl
  | hostClose => rfl

theorem applyMoves_codec (ms : List Move) (s : State) (o : CodecOut) :
    applyMoves ms { s with codec := o } = { applyMoves ms s with codec := o } := by
  induction ms generalizing s with
  | nil => rfl
  | cons m ms ih => rw [applyMoves, applyMoves, applyMove_codec, ih]

theorem performFrame_codec (f : BusFrame) (s : State) (o : CodecOut) :
    performFrame f { s with codec := o } = { performFrame f s with codec := o } := by
  cases f with
  | w b => exact deliver_codec b s o
  | r n => rfl

/-- Whether a move stores is not a matter of a call's outputs. -/
theorem movesStore_codec (ms : List Move) (s : State) (o : CodecOut) :
    movesStore ms { s with codec := o } = movesStore ms s := by
  induction ms generalizing s with
  | nil => rfl
  | cons m ms ih =>
    have hm : moveStores m { s with codec := o } = moveStores m s := by cases m <;> rfl
    rw [movesStore, movesStore, applyMove_codec, ih, hm]

theorem framesStore_codec (fs : List BusFrame) (gaps : List (List Move)) (s : State) (o : CodecOut) :
    framesStore fs gaps { s with codec := o } = framesStore fs gaps s := by
  induction fs generalizing gaps s with
  | nil => exact movesStore_codec _ s o
  | cons f fs ih =>
    rw [framesStore, framesStore, applyMoves_codec, performFrame_codec, ih, movesStore_codec]

/-- Only the class DATA writes a cell (R82). -/
theorem frameAction_store {c : FrameClass} (s : State) (h : ∀ f, c ≠ .data f) :
    (frameAction c s).store = s.store := by
  cases c with
  | data f => exact absurd rfl (h f)
  | ctrlRsvd a d l =>
    rw [frameAction]
    obtain ⟨-, h⟩ | ⟨-, h⟩ | ⟨-, -, h⟩ | ⟨-, -, h⟩ := ctrlRsvd_cases a l s <;> rw [h] <;> rfl
  | _ => rfl

/-- A frame of the class DATA is a non-empty frame that is polled in `AwaitingDataCompletion` (R61). -/
theorem classify_eq_data {ph : Phase} {f g : List Byte} (h : classify ph f = .data g) :
    ph = .awaitingDataCompletion ∧ f ≠ [] := by
  cases f with
  | nil => cases ph <;> cases h
  | cons b r =>
    cases ph with
    | awaitingDataCompletion => exact ⟨rfl, List.cons_ne_nil b r⟩
    | awaitingControl =>
      match r, h with
      | d :: l :: r, h =>
        simp only [classify] at h
        split at h
        · cases h
        · split at h
          · split at h <;> cases h
          · cases h

/-- A move that does not store leaves the register file (R86 (5)). -/
theorem applyMove_store {m : Move} {s : State} (h : moveStores m s = false) :
    (applyMove m s).store = s.store := by
  cases m with
  | poll =>
    rw [applyMove]
    cases hr : pollReady s with
    | false => rw [pollSlot_of_not_ready hr]
    | true =>
      rw [pollSlot_of_ready hr]
      refine frameAction_store _ fun g hg => ?_
      obtain ⟨hp, hf⟩ := classify_eq_data hg
      simp [moveStores, hr, hp, hf] at h
  | inbound b => rw [applyMove, deliver_frame]
  | hostOpen => cases h
  | hostClose => rfl

theorem applyMoves_store {ms : List Move} {s : State} (h : movesStore ms s = false) :
    (applyMoves ms s).store = s.store := by
  induction ms generalizing s with
  | nil => rfl
  | cons m ms ih =>
    rw [movesStore, Bool.or_eq_false_iff] at h
    rw [applyMoves, ih h.2, applyMove_store h.1]

theorem performFrame_store (f : BusFrame) (s : State) : (performFrame f s).store = s.store := by
  cases f with
  | w b => rw [performFrame_w, deliver_frame]
  | r n => rfl

theorem performFrames_store {fs : List BusFrame} {gaps : List (List Move)} {s : State}
    (h : framesStore fs gaps s = false) : (performFrames fs gaps s).store = s.store := by
  induction fs generalizing gaps s with
  | nil => exact applyMoves_store h
  | cons f fs ih =>
    rw [framesStore, Bool.or_eq_false_iff] at h
    rw [performFrames, ih h.2, performFrame_store, applyMoves_store h.1]

/-- The emission of a transaction during which no move stores leaves the register file. -/
theorem emit_store {t : List BusFrame} {s : State}
    (h : framesStore (performedFrames s.env t) s.env.gaps s = false) : (emit t s).store = s.store := by
  rw [← framesStore_codec _ _ s { s.codec with txn := t }] at h
  exact performFrames_store h

end Sys2Proof.Machine
end

