-- ==== Sys2Proof/Tests/Slice0.lean ====
section
/-! SUPPORT. Tests. The expected values are those of spec/95_test_vectors.md (the vector is named in the comment) or
of the rule named; the illustrative parameters are that file's: `READ_OFFSET = 1`, `PERIPH_ADDR = 0x42`,
`RX_CAPACITY = 64`. The theorems `witness_…` show, for each statement with hypotheses, values that meet them. -/

namespace Sys2Proof.Tests
open Sys2Proof Sys2Proof.Machine

/-- The illustrative parameters of 95_test_vectors.md. -/
def cfg : Config := ⟨1, 0x42, 0, .ignore⟩

/-- The start of 95_test_vectors.md section 2.4: an open session, `store[i] = i`, `tx_data = [0xCC]`. -/
def base : State :=
  { State.reset with
    store := Vector.ofFn fun i => BitVec.ofNat 8 i.val
    pendAddr := 0, pendLen := 0, txData := [0xCC], sessionOpen := true, config := cfg }

/-- `base` with an unpolled frame. -/
def withFrame (f : List Byte) : State := { base with rxValid := true, rxData := f }

/-- `base` awaiting data for a pending write. -/
def pending (a l : Byte) : State :=
  { base with phase := .awaitingDataCompletion, pendAddr := a, pendLen := l }

/-- `base` in the middle of a call whose environment is `e`. -/
def inCall (e : CallEnv) : State := { base with env := e }

/-- The PSM polls after each frame and the transport succeeds. -/
def polledEnv : CallEnv := ⟨[[], [.poll], [.poll]], none⟩

/-- The outcome is a next state with the property. -/
def nexts (o : Host.Outcome State Fault Refusal) (p : State → Bool) : Bool :=
  match o with
  | .next t => p t
  | .fault _ => false
  | .refused _ => false

/-- The outcome is the refusal. -/
def refuses (o : Host.Outcome State Fault Refusal) (r : Refusal) : Bool :=
  match o with
  | .next _ => false
  | .fault _ => false
  | .refused q => q = r

/-! ### Well-formedness: each check refuses an ill-formed term -/

theorem test_wf_pData_empty : (Instr.pData []).wellFormed cfg = false := by decide
theorem test_wf_pData_too_long : (Instr.pData (List.replicate 65 0)).wellFormed cfg = false := by decide
theorem test_wf_pCtrlShort_empty : (Instr.pCtrlShort []).wellFormed cfg = false := by decide
theorem test_wf_pCtrlShort_three : (Instr.pCtrlShort [0, 0, 0]).wellFormed cfg = false := by decide
theorem test_wf_pCtrlRead_identity : (Instr.pCtrlRead 0xFF 1).wellFormed cfg = false := by decide
theorem test_wf_pCtrlRsvd_write : (Instr.pCtrlRsvd 0 0 1).wellFormed cfg = false := by decide
theorem test_wf_pCtrlRsvd_read : (Instr.pCtrlRsvd 0 1 1).wellFormed cfg = false := by decide
theorem test_wf_memRead_identity : (Instr.memRead 0xFF 1).wellFormed cfg = false := by decide
theorem test_wf_memWrite_too_long : (Instr.memWrite 0 (List.replicate 256 0)).wellFormed cfg = false := by
  decide +kernel
theorem test_wf_codecClamp_address : (Instr.codecClamp 64 1).wellFormed cfg = false := by decide
theorem test_wf_encWrite_address : (Instr.encWrite 64 0 []).wellFormed cfg = false := by decide
theorem test_wf_encWrite_length : (Instr.encWrite 63 2 [0, 0]).wellFormed cfg = false := by decide
theorem test_wf_encWrite_payload : (Instr.encWrite 0 2 [0]).wellFormed cfg = false := by decide
theorem test_wf_encRead_address : (Instr.encRead 64 0).wellFormed cfg = false := by decide
theorem test_wf_encRead_length : (Instr.encRead 63 2).wellFormed cfg = false := by decide
theorem test_wf_decRead_size : (Instr.decRead [0, 0] 4).wellFormed cfg = false := by decide
theorem test_wf_decRead_length : (Instr.decRead (List.replicate 66 0) 65).wellFormed cfg = false := by decide
theorem test_wf_opWrite_payload : (Instr.opWrite 0 4 [1, 2]).wellFormed cfg = false := by decide

/-! ### Decoding: frames and control words written out from R49 and R51 -/

/-- T-P1. -/
theorem test_decode_none : decode .awaitingControl [] = .pNone := by decide
/-- T-P25: a control frame is data while a write is pending. -/
theorem test_decode_data : decode .awaitingDataCompletion [0x20, 0x00, 0x02] = .pData [0x20, 0x00, 0x02] := by
  decide
/-- T-P4. -/
theorem test_decode_short : decode .awaitingControl [0xFF, 0x01] = .pCtrlShort [0xFF, 0x01] := by decide
/-- T-P6: the fourth byte is ignored. -/
theorem test_decode_write_trailing :
    decode .awaitingControl [0x01, 0x00, 0x02, 0x99] = .pCtrlWrite 0x01 0x02 := by decide
/-- T-P5 as the control word `aaaaaaaa 00000000 llllllll`. -/
theorem test_word_write : decodeTableWord 24 0b001111000000000000000100 = some (.pCtrlWrite 0x3C 0x04) := by decide
/-- T-P8 as the control word `aaaaaaaa 00000001 llllllll`. -/
theorem test_word_read : decodeTableWord 24 0b000001010000000100000010 = some (.pCtrlRead 0x05 0x02) := by decide
/-- T-P14 as the control word `11111111 00000001 llllllll`. -/
theorem test_word_ident : decodeTableWord 24 0b111111110000000100000101 = some (.pCtrlIdent 0x05) := by decide
/-- T-P15 as the control word `aaaaaaaa dddddddd llllllll`. -/
theorem test_word_rsvd : decodeTableWord 24 0b000000000000011100000001 = some (.pCtrlRsvd 0x00 0x07 0x01) := by decide
/-- T-P7: a write to 0xFF is an ordinary write control frame. -/
theorem test_word_write_identity : decodeTableWord 24 0xFF0001 = some (.pCtrlWrite 0xFF 0x01) := by decide
/-- T-E10: the codec's control words are `0x000004`, `0x000104`, `0xFF0101`. -/
theorem test_encoded_control_words :
    encode (.encWrite 0 4 [1, 2, 3, 4]) = some [0x00, 0x00, 0x04] ∧
    encode (.encRead 0 4) = some [0x00, 0x01, 0x04] ∧ encode .encIdent = some [0xFF, 0x01, 0x01] := by decide
/-- R16: the step runs the frame that `withFetchWord` places, here T-P5 right after reset. -/
theorem test_fetch_word_runs :
    nexts (step (State.reset.withFetchWord 24 0x3C0004)) (fun t =>
      t.pendAddr = 0x3C ∧ t.pendLen = 4 ∧ t.phase = .awaitingDataCompletion ∧ t.rxValid = false) := by decide

/-! ### The PSM (95_test_vectors.md 2.4) -/

/-- T-P2: an empty frame does not complete a pending write. -/
theorem test_poll_empty_pending :
    nexts (exec .poll { pending 5 2 with rxValid := true, rxData := [] }) (fun t =>
      t.phase = .awaitingDataCompletion ∧ t.rxValid = false) := by decide
theorem test_pNone : nexts (exec .pNone base) (fun t => t = base) := by decide
/-- T-P4. -/
theorem test_pCtrlShort : nexts (exec (.pCtrlShort [0xFF, 0x01]) base) (fun t => t = base) := by decide
/-- T-P5. -/
theorem test_pCtrlWrite :
    nexts (exec (.pCtrlWrite 0x3C 0x04) base) (fun t =>
      t.phase = .awaitingDataCompletion ∧ t.pendAddr = 60 ∧ t.pendLen = 4 ∧ t.txData = [0xCC]) := by decide
/-- T-P9: truncated. -/
theorem test_pCtrlRead_tail : nexts (exec (.pCtrlRead 0x3E 0x05) base) (fun t => t.txData = [0x3E, 0x3F]) := by
  decide
/-- T-P10: address 70. -/
theorem test_pCtrlRead_outside : nexts (exec (.pCtrlRead 0x46 0x03) base) (fun t => t.txData = []) := by decide
/-- T-P14. -/
theorem test_pCtrlIdent : nexts (exec (.pCtrlIdent 0x05) base) (fun t => t.txData = [0x42]) := by decide
/-- T-P16, policy `AsWrite`. -/
theorem test_pCtrlRsvd_asWrite :
    nexts (exec (.pCtrlRsvd 0x00 0x07 0x01) { base with config := ⟨1, 0x42, 0, .asWrite⟩ }) (fun t =>
      t.phase = .awaitingDataCompletion ∧ t.pendAddr = 0 ∧ t.pendLen = 1) := by decide
/-- T-P18, policy `AsRead`. -/
theorem test_pCtrlRsvd_asRead :
    nexts (exec (.pCtrlRsvd 0xFF 0x02 0x01) { base with config := ⟨1, 0x42, 0, .asRead⟩ }) (fun t =>
      t.txData = [0x42]) := by decide
/-- T-P22: bytes past cell 63 are dropped. -/
theorem test_pData_tail :
    nexts (exec (.pData [1, 2, 3, 4]) (pending 62 4)) (fun t =>
      t.phase = .awaitingControl ∧ readCell t.store 61 = 61 ∧ readCell t.store 62 = 1 ∧
      readCell t.store 63 = 2 ∧ readCell t.store 0 = 0) := by decide
/-- T-P21: bytes past the pending length are ignored. -/
theorem test_pData_long :
    nexts (exec (.pData [1, 2, 3]) (pending 10 2)) (fun t =>
      readCell t.store 10 = 1 ∧ readCell t.store 11 = 2 ∧ readCell t.store 12 = 12) := by decide
/-- T-P26: a control frame taken as data stages no reply. -/
theorem test_poll_data :
    nexts (exec .poll { pending 5 2 with rxValid := true, rxData := [0x07, 0x01, 0x02] }) (fun t =>
      t.phase = .awaitingControl ∧ readCell t.store 5 = 0x07 ∧ readCell t.store 6 = 0x01 ∧
      t.txData = [0xCC] ∧ t.rxValid = false) := by decide

/-! ### Register file, transport, session (95_test_vectors.md 2.5, 2.6, 2.8) -/

/-- T-M2. -/
theorem test_memRead_tail : nexts (exec (.memRead 62 5) base) (fun t => t.memOut = [0x3E, 0x3F]) := by decide
/-- T-M4. -/
theorem test_memRead_outside : nexts (exec (.memRead 64 1) base) (fun t => t.memOut = []) := by decide
/-- T-M6. -/
theorem test_memWrite_tail :
    nexts (exec (.memWrite 60 [1, 2, 3, 4, 5, 6, 7, 8]) base) (fun t =>
      memRead t.store 59 5 = [59, 1, 2, 3, 4] ∧ readCell t.store 0 = 0) := by decide
/-- T-M7. -/
theorem test_memWrite_identity : nexts (exec (.memWrite 0xFF [9]) base) (fun t => readCell t.store 0 = 0 ∧ readCell t.store 63 = 63) := by
  decide
/-- T-B3: a 70-byte frame is cut to 64 bytes. -/
theorem test_busInbound_capacity :
    nexts (exec (.busInbound (List.replicate 70 7)) base) (fun t =>
      t.rxValid = true ∧ t.rxData = List.replicate 64 7) := by decide
/-- T-B4: a closed session takes nothing. -/
theorem test_busInbound_closed :
    nexts (exec (.busInbound [1]) { base with sessionOpen := false }) (fun t =>
      t.rxValid = false ∧ t.rxData = []) := by decide
/-- T-B5: `raw = [x, 0x11, 0x22]`. -/
theorem test_busRead_offset :
    nexts (exec (.busRead 3) { base with txData := [0x11, 0x22] }) (fun t =>
      t.raw.drop 1 = [0x11, 0x22] ∧ t.txData = [0x11, 0x22]) := by decide
/-- T-B7: `R(1)` with `READ_OFFSET = 2` is one artifact byte. -/
theorem test_busRead_short :
    nexts (exec (.busRead 1) { base with config := ⟨2, 0x42, 0, .ignore⟩ }) (fun t => t.raw.length = 1) := by
  decide
/-- T-S1. -/
theorem test_sessionOpen :
    nexts (exec .sessionOpen (pending 3 2)) (fun t =>
      t.phase = .awaitingControl ∧ t.txData = [] ∧ t.rxValid = false ∧ t.sessionOpen = true) := by decide
theorem test_sessionClose : nexts (exec .sessionClose base) (fun t => t.sessionOpen = false) := by decide

/-! ### The codec (95_test_vectors.md 2.1 to 2.3, 2.7) -/

/-- T-C2: 63 is valid; T-C11: 64 is not. -/
theorem test_codecValidate :
    nexts (exec (.codecValidate 63) base) (fun t => t.codec.status = none) ∧
    nexts (exec (.codecValidate 64) base) (fun t => t.codec.status = some (.invalidAddress 64)) := by decide
/-- T-C3. -/
theorem test_codecClamp_overflow :
    nexts (exec (.codecClamp 63 2) base) (fun t => t.codec.effLen = some 1 ∧ warnOverflow t.codec) := by decide
/-- T-C10. -/
theorem test_codecClamp_wide :
    nexts (exec (.codecClamp 1 300) base) (fun t =>
      t.codec.effLen = some 63 ∧ t.codec.warn = some ⟨300, 63⟩) := by decide +kernel
/-- T-E3: the payload is cut to `L`. -/
theorem test_encWrite :
    nexts (exec (.encWrite 7 2 [9, 8, 7]) base) (fun t =>
      t.codec.txn = [.w [0x07, 0x00, 0x02], .w [0x09, 0x08]]) := by decide
/-- T-E5. -/
theorem test_encWrite_short : refuses (exec (.encWrite 0 4 [1, 2]) base) .payloadTooShort := by decide
/-- T-E6. -/
theorem test_encRead :
    nexts (exec (.encRead 0 4) base) (fun t => t.codec.txn = [.w [0x00, 0x01, 0x04], .r 5]) := by decide
/-- T-E9. -/
theorem test_encIdent :
    nexts (exec .encIdent base) (fun t =>
      t.codec.txn = [.w [0xFF, 0x01, 0x01], .r 2] ∧ t.codec.effLen = some 1) := by decide
/-- T-D1. -/
theorem test_decRead :
    nexts (exec (.decRead [0xAA, 1, 2, 3, 4] 4) base) (fun t => t.codec.dataOut = some [1, 2, 3, 4]) := by decide
/-- T-D5. -/
theorem test_decRead_size : refuses (exec (.decRead [0xAA, 1] 4) base) .rawSizeMismatch := by decide
/-- T-X6, V2: `write(60, 8, …)` warns and stores four bytes. -/
theorem test_opWrite_overflow :
    nexts (exec (.opWrite 60 8 [0xA0, 0xA1, 0xA2, 0xA3, 0xA4, 0xA5, 0xA6, 0xA7]) (inCall polledEnv)) (fun t =>
      t.codec.status = some .ok ∧ t.codec.warn = some ⟨8, 4⟩ ∧
      memRead t.store 59 5 = [59, 0xA0, 0xA1, 0xA2, 0xA3] ∧ t.phase = .awaitingControl) := by decide
/-- T-X2: the address is checked before the length. -/
theorem test_opWrite_invalid :
    nexts (exec (.opWrite 100 200 []) (inCall polledEnv)) (fun t =>
      t.codec.status = some (.invalidAddress 100) ∧ t.codec.warn = none ∧ t.codec.txn = []) := by decide
/-- P2 steps 4 to 6: `read(62, 5)` returns the two tail cells with a warning. -/
theorem test_opRead_tail :
    nexts (exec (.opRead 62 5) (inCall polledEnv)) (fun t =>
      t.codec.status = some .ok ∧ t.codec.dataOut = some [62, 63] ∧ warnOverflow t.codec) := by decide
/-- T-X4: the transport fails. -/
theorem test_opRead_failure :
    nexts (exec (.opRead 60 8) (inCall ⟨[], some 2⟩)) (fun t =>
      t.codec.status = some .transportFailure ∧ warnOverflow t.codec ∧ t.codec.dataOut = none ∧
      t.codec.txn = [.w [0x3C, 0x01, 0x04], .r 5]) := by decide
/-- V3. -/
theorem test_opIdent :
    nexts (exec .opIdent (inCall polledEnv)) (fun t =>
      t.codec.status = some .ok ∧ t.codec.dataOut = some [0x42]) := by decide
/-- T-X5. -/
theorem test_opIdent_failure :
    nexts (exec .opIdent (inCall ⟨[], some 0⟩)) (fun t =>
      t.codec.status = some .transportFailure ∧ t.codec.warn = none ∧ t.codec.dataOut = none) := by decide
/-- T-S2: the first step after power-on delivers and polls nothing. -/
theorem test_reset_closed :
    nexts (step State.reset) (fun t => t.sessionOpen = false ∧ t.phase = .awaitingControl ∧ t.rxValid = false) := by
  decide

end Sys2Proof.Tests
end

