-- ==== Sys2Proof/Tests/Witnesses.lean ====
section
/-! SUPPORT. For each statement of Certificates/Slice0/Obligations.lean that has hypotheses, one theorem with concrete
values that meet them, each clause at a boundary of its range. -/

namespace Sys2Proof.Tests
open Sys2Proof Sys2Proof.Machine

/-- A closed session. -/
def closed : State := { base with sessionOpen := false }

/-- `base` under another policy for the reserved directions, with an unpolled frame. -/
def underPolicy (p : ReservedDirPolicy) (f : List Byte) : State :=
  { withFrame f with config := ⟨1, 0x42, 0, p⟩ }

/-- A pending write with an unpolled frame. -/
def pendingFrame (a l : Byte) (f : List Byte) : State := { pending a l with rxValid := true, rxData := f }

/-- The PSM polls the control frame of a write in the call, and leaves the data frame in the slot. -/
def lateEnv : CallEnv := ⟨[[], [.poll]], none⟩

/-- The PSM polls both frames of a write, and the transport reports failure all the same. -/
def failedLate : CallEnv := ⟨[[], [.poll], [.poll]], some 2⟩

/-- `base` with requests waiting. -/
def asked (rs : List Request) : State := { base with agenda := rs }

theorem witness_IgnoredFramesChangeNothing :
    ((withFrame []).sessionOpen = true ∧ (withFrame []).rxValid = true ∧ (withFrame []).rxData = []) ∧
    ((pendingFrame 5 2 []).rxValid = true ∧ (pendingFrame 5 2 []).rxData = []) ∧
    ((withFrame [0]).phase = .awaitingControl ∧ 1 ≤ (withFrame [0]).rxData.length) ∧
    (withFrame [0, 0]).rxData.length ≤ 2 := by decide

theorem witness_ReservedDirectionFollowsPolicy :
    ((2 : Byte) ≠ dirWrite ∧ (2 : Byte) ≠ dirRead ∧ (255 : Byte) ≠ dirWrite ∧ (255 : Byte) ≠ dirRead) ∧
    (underPolicy .ignore []).config.reservedDirPolicy = .ignore ∧
    (underPolicy .asWrite []).config.reservedDirPolicy = .asWrite ∧
    (underPolicy .asRead []).config.reservedDirPolicy = .asRead ∧
    (0xFF : Byte) = identityAddr ∧ (0xFE : Byte) ≠ identityAddr := by decide

theorem witness_PollRunsTheDecodedFrame :
    closed.sessionOpen = false ∧ base.rxValid = false ∧
    (withFrame [5, 1, 2]).sessionOpen = true ∧ (withFrame [5, 1, 2]).rxValid = true := by decide

theorem witness_PollFollowsTheTransitionTable :
    (base.sessionOpen = true ∧ base.rxValid = false) ∧
    ((withFrame []).rxValid = true ∧ (withFrame []).rxData = []) ∧
    (1 ≤ (withFrame [0]).rxData.length ∧ (withFrame [0, 0]).rxData.length ≤ 2) ∧
    ((withFrame [60, 0, 4]).phase = .awaitingControl ∧ 3 ≤ (withFrame [60, 0, 4]).rxData.length ∧
      (withFrame [60, 0, 4]).rxData.getD 1 0 = 0) ∧
    ((withFrame [0xFE, 1, 4]).rxData.getD 1 0 = 1 ∧ (withFrame [0xFE, 1, 4]).rxData.getD 0 0 ≠ 0xFF) ∧
    ((withFrame [0xFF, 1, 4]).rxData.getD 1 0 = 1 ∧ (withFrame [0xFF, 1, 4]).rxData.getD 0 0 = 0xFF) ∧
    (2 ≤ ((withFrame [0, 2, 1]).rxData.getD 1 0).toNat ∧
      (withFrame [0, 2, 1]).config.reservedDirPolicy = .ignore) ∧
    ((pendingFrame 60 4 [1]).phase = .awaitingDataCompletion ∧ (pendingFrame 60 4 [1]).rxData ≠ []) := by
  decide

theorem witness_PendingWriteEnteredOnlyByWriteFrame :
    exec .poll (withFrame [60, 0, 4]) = .next (pollSlot (withFrame [60, 0, 4])) ∧
    (withFrame [60, 0, 4]).phase = .awaitingControl ∧
    (pollSlot (withFrame [60, 0, 4])).phase = .awaitingDataCompletion ∧
    exec .poll (underPolicy .asWrite [0, 2, 1]) = .next (pollSlot (underPolicy .asWrite [0, 2, 1])) ∧
    (underPolicy .asWrite [0, 2, 1]).phase = .awaitingControl ∧
    (pollSlot (underPolicy .asWrite [0, 2, 1])).phase = .awaitingDataCompletion :=
  ⟨rfl, rfl, rfl, rfl, rfl, rfl⟩

theorem witness_PendingWriteLeftOnlyByDataOrOpen :
    exec Move.poll.instr (pendingFrame 5 2 [7]) = .next (pollSlot (pendingFrame 5 2 [7])) ∧
    (pendingFrame 5 2 [7]).phase = .awaitingDataCompletion ∧
    (pollSlot (pendingFrame 5 2 [7])).phase = .awaitingControl ∧
    exec Move.hostOpen.instr (pending 5 2) = .next (openSession (pending 5 2)) ∧
    (openSession (pending 5 2)).phase = .awaitingControl ∧
    exec (.busRead 0) (pending 5 2) = .next (outbound 0 (pending 5 2)) :=
  ⟨rfl, rfl, rfl, rfl, rfl, rfl⟩

theorem witness_RegisterFileChangesOnlyInDataPhase :
    step (pendingFrame 5 2 [7]) = .next (pollSlot (pendingFrame 5 2 [7])) ∧
    (pollSlot (pendingFrame 5 2 [7])).store ≠ (pendingFrame 5 2 [7]).store := by
  refine ⟨rfl, fun h => ?_⟩
  have : readCell (pollSlot (pendingFrame 5 2 [7])).store 5 = readCell (pendingFrame 5 2 [7]).store 5 := by
    rw [h]
  exact absurd this (by decide)

/-- The clause of a call: a write whose data frame is polled stores; polls that find no data frame do not, and neither
does a write whose data frame is left in the slot (R82, R113). -/
theorem test_callStores :
    callStores (.write 63 1 [7]) (inCall polledEnv) = true ∧
    callStores (.read 63 1) (inCall polledEnv) = false ∧
    callStores (.write 63 1 [7]) (inCall lateEnv) = false ∧
    callStores (.read 64 1) (inCall ⟨[[.hostOpen]], none⟩) = false ∧
    callStores (.read 63 1) (inCall ⟨[[.hostOpen]], none⟩) = true := by decide +kernel

theorem witness_PeripheralWaitsForever :
    State.reset.agenda = [] ∧ State.reset.rxValid = false ∧ (pending 5 2).agenda = [] ∧
    (pending 5 2).rxValid = false := by decide

theorem witness_InboundFrameFillsTheSlot : base.sessionOpen = true ∧ closed.sessionOpen = false := by decide

theorem witness_SecondInboundFrameReplacesTheFirst :
    exec (.busInbound [0, 0, 2]) base = .next (deliver [0, 0, 2] base) := rfl

/-- With `READ_OFFSET = 1` and one staged byte, position 1 is the reply and positions 0 and 2 are free. -/
theorem witness_OutboundReadServesTheStagedReply :
    base.sessionOpen = true ∧
    (base.config.readOffset ≤ 1 ∧ 1 < 3 ∧ 1 < base.config.readOffset + base.txData.length) ∧
    0 < base.config.readOffset ∧ base.config.readOffset + base.txData.length ≤ 2 := by decide

theorem witness_OutboundReadOfClosedSessionIsFree : closed.sessionOpen = false := rfl

theorem witness_InRangeLengthCases :
    60 + 4 ≤ 64 ∧ 64 + 0 ≤ 64 ∧ (63 ≤ 64 ∧ 64 < 63 + 2) ∧ (64 ≤ 64 ∧ 64 < 64 + 1) ∧ 64 ≤ 64 := by decide

theorem witness_MemReadAfterMemWriteReturnsTheBytes :
    exec (.memWrite 62 [1, 2, 3]) base =
      .next { base with store := memWrite base.store 62 [1, 2, 3] } ∧ (3 : Byte).toNat ≤ 3 := ⟨rfl, by decide⟩

theorem witness_ParametersAreNeverWritten : exec .poll base = .next (pollSlot base) := rfl

theorem witness_IdentityNeverAliasesACell :
    stepN 1 (pendingFrame 0xFF 1 [0x99]) = .next (pollSlot (pendingFrame 0xFF 1 [0x99])) := rfl

theorem witness_ValidationRejectsAddressesAbove63 :
    (63 : Byte).toNat ≤ 63 ∧ 63 < (64 : Byte).toNat ∧ 63 < (0xFF : Byte).toNat := by decide

theorem witness_ClampingWarnsOnOverflow :
    (63 : Byte).toNat ≤ 63 ∧ 64 < (63 : Byte).toNat + 2 ∧ (63 : Byte).toNat + 1 ≤ 64 := by decide

theorem witness_EncodeWriteEmitsControlThenData :
    (2 : Byte).toNat ≤ [9, 8].length ∧ [9].length < (2 : Byte).toNat := by decide

theorem witness_DecodeReadDiscardsTheOffset :
    ([0xAA] : List Byte).length = base.config.readOffset ∧
    ([0xAA, 1] : List Byte).length ≠ 4 + base.config.readOffset := by decide

theorem witness_InvalidAddressEndsTheCallUnseen : 63 < (64 : Byte).toNat ∧ 63 < (0xFF : Byte).toNat := by decide

theorem witness_WriteCallReportsItsOutcome :
    (63 : Byte).toNat ≤ 63 ∧ min 8 (64 - (63 : Byte).toNat) ≤ [1].length ∧
    64 < (63 : Byte).toNat + 8 ∧ ¬ 64 < (63 : Byte).toNat + 1 ∧
    (inCall polledEnv).env.failAfter = none ∧ (inCall ⟨[], some 2⟩).env.failAfter ≠ none := by decide

theorem witness_WriteCallRefusesAShortPayload :
    (63 : Byte).toNat ≤ 63 ∧ ([] : List Byte).length < min 1 (64 - (63 : Byte).toNat) := by decide

theorem witness_ReadCallReportsItsOutcome :
    (63 : Byte).toNat ≤ 63 ∧ (inCall polledEnv).env.failAfter = none ∧
    (inCall ⟨[], some 2⟩).env.failAfter ≠ none := by decide

theorem witness_IdentityCallReportsItsOutcome :
    (inCall polledEnv).env.failAfter = none ∧ (inCall ⟨[], some 0⟩).env.failAfter ≠ none := by decide

/-- The PSM polls the data frame in the last gap, or only after the call. -/
theorem witness_PolledWriteStoresExactlyItsRegion :
    (Ready (inCall polledEnv) ∧ polledEnv.failAfter = none ∧ Undisturbed polledEnv ∧
      CallPolledBeforeNextFrame (.write 63 2 [7]) (inCall polledEnv) ∧ Move.poll ∈ gapAt polledEnv 2) ∧
    (Ready (inCall lateEnv) ∧ lateEnv.failAfter = none ∧ Undisturbed lateEnv ∧
      CallPolledBeforeNextFrame (.write 63 2 [7]) (inCall lateEnv) ∧ Move.poll ∉ gapAt lateEnv 2) ∧
    (63 : Byte).toNat ≤ 63 ∧ 1 ≤ 2 ∧ min 2 (64 - (63 : Byte).toNat) ≤ [7].length := by decide

theorem witness_ServicedReadReturnsTheCells :
    Ready (inCall polledEnv) ∧ polledEnv.failAfter = none ∧ Undisturbed polledEnv ∧
    CallServicedBeforeRead (.read 63 5) (inCall polledEnv) ∧ (63 : Byte).toNat ≤ 63 ∧
    0 < min 5 (64 - (63 : Byte).toNat) := by decide

/-- A write and a read of cells 62 and 63 with `m` polls between them. -/
def roundTrip (e₁ e₂ : CallEnv) (m : Nat) : State :=
  asked (.call (.write 62 2 [7, 8]) e₁ :: (List.replicate m (.move .poll) ++ .call (.read 62 2) e₂ :: []))

/-- The data frame is polled in the last gap of the write call. -/
theorem witness_ReadAfterWriteCallReturnsTheData :
    Ready (roundTrip polledEnv polledEnv 0) ∧ polledEnv.failAfter = none ∧ Undisturbed polledEnv ∧
    1 ≤ 2 ∧ (62 : Byte).toNat + 2 ≤ 64 ∧ 2 ≤ [7, 8].length ∧
    PolledBeforeNextFrame (0 + 2) (roundTrip polledEnv polledEnv 0) ∧
    ServicedBeforeRead (0 + 2) (roundTrip polledEnv polledEnv 0) := by decide +kernel

/-- The data frame is polled between the calls. -/
theorem witness_ReadAfterWriteCallReturnsTheData_polled_between :
    Ready (roundTrip lateEnv polledEnv 1) ∧ Undisturbed lateEnv ∧
    PolledBeforeNextFrame (1 + 2) (roundTrip lateEnv polledEnv 1) ∧
    ServicedBeforeRead (1 + 2) (roundTrip lateEnv polledEnv 1) := by decide +kernel

/-- The data frame is polled in the first gap of the read call. -/
theorem witness_ReadAfterWriteCallReturnsTheData_polled_in_the_read :
    Ready (roundTrip lateEnv ⟨[[.poll], [.poll]], none⟩ 0) ∧ Undisturbed ⟨[[.poll], [.poll]], none⟩ ∧
    PolledBeforeNextFrame (0 + 2) (roundTrip lateEnv ⟨[[.poll], [.poll]], none⟩ 0) ∧
    ServicedBeforeRead (0 + 2) (roundTrip lateEnv ⟨[[.poll], [.poll]], none⟩ 0) := by decide +kernel

/-- Not polled at all before the read call, the run is outside the assumption (R113). -/
theorem test_polled_before_next_frame_excludes_the_overrun :
    ¬ PolledBeforeNextFrame 2 (roundTrip lateEnv ⟨[[], [.poll]], none⟩ 0) ∧
    ¬ CallPolledBeforeNextFrame (.write 63 1 [7]) (inCall ⟨[], none⟩) ∧
    ¬ CallServicedBeforeRead (.read 63 1) (inCall ⟨[[.poll], [], [.poll]], none⟩) := by decide +kernel

theorem witness_ServicedIdentityQueryReturnsPeripheralAddress :
    Ready (inCall polledEnv) ∧ polledEnv.failAfter = none ∧ Undisturbed polledEnv ∧
    CallServicedBeforeRead .identity (inCall polledEnv) := by decide

theorem witness_UnservicedReadReturnsThePreviousReply :
    (inCall ⟨[], none⟩).sessionOpen = true ∧ (63 : Byte).toNat ≤ 63 ∧ (inCall ⟨[], none⟩).env = ⟨[], none⟩ ∧
    0 < min 1 (64 - (63 : Byte).toNat) ∧ 0 < (inCall ⟨[], none⟩).txData.length := by decide

theorem witness_ZeroLengthWriteSwallowsTheNextFrame :
    (Ready (inCall polledEnv) ∧ polledEnv.failAfter = none ∧ Undisturbed polledEnv ∧
      CallPolledBeforeNextFrame (.write 63 0 []) (inCall polledEnv) ∧ Move.poll ∈ gapAt polledEnv 2) ∧
    (63 : Byte).toNat ≤ 63 ∧ ([0x07, 0x01, 0x02] : List Byte) ≠ [] := by decide

theorem witness_FailedWriteCallKeepsWhatWasDelivered :
    (Ready (inCall ⟨[], some 0⟩) ∧ (63 : Byte).toNat ≤ 63 ∧ min 1 (64 - (63 : Byte).toNat) ≤ [7].length ∧
      (inCall ⟨[], some 0⟩).env.failAfter = some 0 ∧ OnlyPolls (gapAt (inCall ⟨[], some 0⟩).env 0)) ∧
    (Ready (inCall ⟨[[], [.poll]], some 1⟩) ∧ (inCall ⟨[[], [.poll]], some 1⟩).env.failAfter = some 1 ∧
      OnlyPolls (gapAt (inCall ⟨[[], [.poll]], some 1⟩).env 0) ∧
      Polled (gapAt (inCall ⟨[[], [.poll]], some 1⟩).env 1)) ∧
    (Ready (inCall failedLate) ∧ failedLate.failAfter = some 2 ∧ 2 ≤ 2 ∧ 1 ≤ 1 ∧
      OnlyPolls (gapAt failedLate 0) ∧ Polled (gapAt failedLate 1) ∧ Polled (gapAt failedLate 2)) := by decide

theorem witness_FramesAreClassifiedInTheRuleOrder :
    ([7] : List Byte) ≠ [] ∧ (1 ≤ ([7] : List Byte).length ∧ ([7, 7] : List Byte).length < 3) ∧
    (3 ≤ ([0, 0, 0] : List Byte).length ∧ ([0, 0, 0] : List Byte).getD 1 0 = 0) ∧
    (([0xFF, 1, 0] : List Byte).getD 1 0 = 1 ∧ ([0xFF, 1, 0] : List Byte).getD 0 0 = 0xFF) ∧
    (([0xFE, 1, 0] : List Byte).getD 1 0 = 1 ∧ ([0xFE, 1, 0] : List Byte).getD 0 0 ≠ 0xFF) ∧
    (([0, 2, 0] : List Byte).getD 1 0 ≠ 0 ∧ ([0, 2, 0] : List Byte).getD 1 0 ≠ 1) := by decide

theorem witness_EncodedFramesDecodeToTheirInstruction :
    ((Instr.pCtrlRead 0xFE 0).wellFormed cfg = true ∧ encode (.pCtrlRead 0xFE 0) = some [0xFE, 1, 0]) ∧
    ((Instr.pData [7]).wellFormed cfg = true ∧ encode (.pData [7]) = some [7]) ∧
    ((Instr.encRead 63 1).wellFormed cfg = true ∧ encode (.encRead 63 1) = some [63, 1, 1]) := by decide

theorem witness_EveryFrameDecodesToAWellFormedInstruction :
    ([] : List Byte).length ≤ cfg.rxCapacity ∧ (List.replicate 64 (0 : Byte)).length ≤ cfg.rxCapacity := by decide

theorem witness_StepRunsTheDecodedInstruction :
    ((withFrame [5, 1, 2]).agenda = [] ∧ (withFrame [5, 1, 2]).sessionOpen = true ∧
      (withFrame [5, 1, 2]).rxValid = true ∧
      decode (withFrame [5, 1, 2]).phase (withFrame [5, 1, 2]).rxData = .pCtrlRead 5 2 ∧
      (Instr.pCtrlRead 5 2).wellFormed (withFrame [5, 1, 2]).config = true) ∧
    (closed.agenda = [] ∧ closed.sessionOpen = false) ∧ (base.agenda = [] ∧ base.rxValid = false) ∧
    (asked [.move .hostClose]).agenda = .move .hostClose :: [] ∧
    (asked [.outbound 3]).agenda = .outbound 3 :: [] ∧
    (asked [.call .identity polledEnv]).agenda = .call .identity polledEnv :: [] := by decide

/-- The stop: a call of `write(63, 1, [])`. -/
theorem witness_StepStopsOnlyOnAShortPayload :
    refuses (step (asked [.call (.write 63 1 []) polledEnv])) .payloadTooShort = true := by decide

theorem witness_EveryStepTakesOneRequest :
    step (asked [.outbound 3]) = .next (outbound 3 base) ∧
    (asked [.outbound 3]).agenda.length ≤ 1 ∧ stepN 1 (asked [.outbound 3]) = .next (outbound 3 base) :=
  ⟨rfl, Nat.le_refl 1, rfl⟩

theorem witness_EveryStepKeepsTheInvariant :
    Inv (withFrame [5, 1, 2]) ∧ step (withFrame [5, 1, 2]) = .next (pollSlot (withFrame [5, 1, 2])) := by
  refine ⟨⟨by decide, fun a h => ?_, fun h => ?_, fun d h => ?_, fun l h => ?_⟩, rfl⟩ <;> cases h

end Sys2Proof.Tests
end

/-! ## The family of the state (10_state.md R15, R21, R22, R25): the parameters, the identity address, and the
invariant of a step. -/

namespace Sys2Proof.Machine

/-! ### What a controller call can do -/

/-- The cases of a controller call that answers a next state (R71 to R73): it ends at the address check and touches
only the outputs, or it emits its transaction and finishes. -/
theorem exec_call_cases {c : Call} {s t : State} (h : exec c.instr s = .next t) :
    (∃ a, callTxn s.config c = none ∧ validAddr a = false ∧ t = { s with codec := invalidAddressOut a }) ∨
    (∃ a n p, c = .write a n p ∧ validAddr a = true ∧ clampedLen a.toNat n ≤ p.length ∧
      t = finishWrite (transportFails s)
        (emit (writeTxn a (lengthByte (clampedLen a.toNat n)) p) (clampCall a n (startCall s)))) ∨
    (∃ a n, c = .read a n ∧ validAddr a = true ∧
      t = finishRead (transportFails s) (clampedLen a.toNat n)
        (emit (readTxn s.config a (lengthByte (clampedLen a.toNat n))) (clampCall a n (startCall s)))) ∨
    (c = .identity ∧
      t = finishRead (transportFails s) 1
        (emit (identTxn s.config) { s with codec := identFlags CodecOut.blank })) := by
  cases c with
  | write a n p =>
    simp only [Call.instr, exec, execOpWrite] at h
    split at h <;> rename_i hv
    · split at h <;> rename_i hp <;> cases h
      exact .inr (.inl ⟨a, n, p, rfl, hv, hp, rfl⟩)
    · cases h
      exact .inl ⟨a, if_neg hv, Bool.eq_false_iff.2 hv, rfl⟩
  | read a n =>
    simp only [Call.instr, exec, execOpRead] at h
    split at h <;> rename_i hv <;> cases h
    · exact .inr (.inr (.inl ⟨a, n, rfl, hv, rfl⟩))
    · exact .inl ⟨a, if_neg hv, Bool.eq_false_iff.2 hv, rfl⟩
  | identity =>
    cases h
    exact .inr (.inr (.inr ⟨rfl, rfl⟩))

/-! ### The parameters (R5, R15) -/

theorem frameAction_config (c : FrameClass) (s : State) : (frameAction c s).config = s.config := by
  rw [frameAction_frame]

theorem emit_config (txn : List BusFrame) (s : State) : (emit txn s).config = s.config :=
  (emit_sameCall txn s).config

theorem finishWrite_config (failed : Bool) (s : State) : (finishWrite failed s).config = s.config := by
  rw [finishWrite_eq]

theorem finishRead_config (failed : Bool) (l : Nat) (s : State) :
    (finishRead failed l s).config = s.config := by
  rw [finishRead_eq]

theorem exec_frameClass_config {c : FrameClass} {s t : State} (h : exec c.instr s = .next t) :
    t.config = s.config := by
  rw [exec_frameClass] at h
  cases h
  exact frameAction_config c s

theorem exec_move_config {m : Move} {s t : State} (h : exec m.instr s = .next t) : t.config = s.config := by
  rw [exec_move] at h
  cases h
  exact (applyMove_sameOutside m s).config

theorem exec_call_config {c : Call} {s t : State} (h : exec c.instr s = .next t) : t.config = s.config := by
  obtain ⟨a, -, -, rfl⟩ | ⟨a, n, p, -, -, -, rfl⟩ | ⟨a, n, -, -, rfl⟩ | ⟨-, rfl⟩ := exec_call_cases h
  · rfl
  · rw [finishWrite_config, emit_config]; rfl
  · rw [finishRead_config, emit_config]; rfl
  · rw [finishRead_config, emit_config]

theorem exec_config {i : Instr} {s t : State} (h : exec i s = .next t) : t.config = s.config := by
  cases i with
  | pNone => exact exec_frameClass_config (c := .none) h
  | pData f => exact exec_frameClass_config (c := .data f) h
  | pCtrlShort f => exact exec_frameClass_config (c := .ctrlShort f) h
  | pCtrlWrite a l => exact exec_frameClass_config (c := .ctrlWrite a l) h
  | pCtrlIdent l => exact exec_frameClass_config (c := .ctrlIdent l) h
  | pCtrlRead a l => exact exec_frameClass_config (c := .ctrlRead a l) h
  | pCtrlRsvd a d l => exact exec_frameClass_config (c := .ctrlRsvd a d l) h
  | poll => exact exec_move_config (m := .poll) h
  | busInbound bytes => exact exec_move_config (m := .inbound bytes) h
  | sessionOpen => exact exec_move_config (m := .hostOpen) h
  | sessionClose => exact exec_move_config (m := .hostClose) h
  | opWrite a n p => exact exec_call_config (c := .write a n p) h
  | opRead a n => exact exec_call_config (c := .read a n) h
  | opIdent => exact exec_call_config (c := .identity) h
  | busRead n => cases h; rfl
  | memRead a n => cases h; rfl
  | memWrite a bytes => cases h; rfl
  | codecClamp a n => cases h; rfl
  | encRead a l => cases h; rfl
  | encIdent => cases h; rfl
  | codecValidate a =>
    simp only [exec, execCodecValidate] at h
    cases h
    split <;> rfl
  | encWrite a l p =>
    simp only [exec, execEncWrite] at h
    split at h <;> cases h
    rfl
  | decRead raw l =>
    simp only [exec, execDecRead] at h
    split at h <;> cases h
    rfl

/-- Settles O24: every instruction is a frame's action, a move, a call or a step of one record update, and none of
these writes the parameters. -/
theorem parametersAreNeverWritten : Obligations.ParametersAreNeverWritten :=
  fun _ _ _ h => exec_config h

/-! ### The identity address (R21, R90) -/

theorem takeRequest_config (s : State) : (takeRequest s).config = s.config := by
  unfold takeRequest
  split <;> rfl

theorem step_config {s t : State} (h : step s = .next t) : t.config = s.config :=
  (exec_config h).trans (takeRequest_config s)

theorem stepN_config {k : Nat} {s t : State} (h : stepN k s = .next t) : t.config = s.config := by
  induction k generalizing s with
  | zero => cases h; rfl
  | succ k ih =>
    obtain ⟨u, hs, hu⟩ := stepN_succ_next h
    exact (ih hu).trans (step_config hs)

/-- A write to address 0xFF reaches no cell: the address is above the file (R21, R88). -/
theorem memWrite_identityAddr (st : Store) (bytes : List Byte) :
    memWrite st identityAddr.toNat bytes = st :=
  memWrite_of_outside st (by decide) bytes

/-- Settles O25: an identity read stages the parameter, which no run writes; address 0xFF is above the file. -/
theorem identityNeverAliasesACell : Obligations.IdentityNeverAliasesACell := by
  refine ⟨fun k s t h l => ⟨ctrlIdent t, rfl, ?_, ctrlIdent_store t⟩, fun bytes s => ?_⟩
  · rw [ctrlIdent_txData, stepN_config h]
  · simp only [exec, execMemWrite, memWrite_identityAddr]

/-! ### The bounds of the buffers (R22, R86) -/

theorem ctrlRead_buffersBounded {s : State} (h : BuffersBounded s) (a l : Byte) :
    BuffersBounded (ctrlRead a l s) := by
  refine ⟨?_, h.2⟩
  rw [ctrlRead_txData, memRead_length]
  exact inrange_le_store _ _

theorem ctrlIdent_buffersBounded {s : State} (h : BuffersBounded s) : BuffersBounded (ctrlIdent s) := by
  refine ⟨?_, h.2⟩
  rw [ctrlIdent_txData, List.length_singleton]
  decide

theorem frameAction_buffersBounded {s : State} (h : BuffersBounded s) (c : FrameClass) :
    BuffersBounded (frameAction c s) := by
  cases c with
  | none => exact h
  | data f => exact h
  | ctrlShort f => exact h
  | ctrlWrite a l => exact h
  | ctrlIdent l => exact ctrlIdent_buffersBounded h
  | ctrlRead a l => exact ctrlRead_buffersBounded h a l
  | ctrlRsvd a d l =>
    rw [frameAction]
    obtain ⟨-, e⟩ | ⟨-, e⟩ | ⟨-, -, e⟩ | ⟨-, -, e⟩ := ctrlRsvd_cases a l s <;> rw [e]
    · exact h
    · exact h
    · exact ctrlIdent_buffersBounded h
    · exact ctrlRead_buffersBounded h a l

theorem pollSlot_buffersBounded {s : State} (h : BuffersBounded s) : BuffersBounded (pollSlot s) := by
  cases hr : pollReady s with
  | false => rwa [pollSlot_of_not_ready hr]
  | true =>
    rw [pollSlot_of_ready hr]
    exact frameAction_buffersBounded (s := consumed s) h _

theorem deliver_buffersBounded {s : State} (h : BuffersBounded s) (bytes : List Byte) :
    BuffersBounded (deliver bytes s) := by
  cases ho : s.sessionOpen with
  | false => rwa [deliver_of_closed ho]
  | true =>
    rw [deliver_of_open ho]
    exact ⟨h.1, List.length_take_le _ _⟩

theorem applyMove_buffersBounded {s : State} (h : BuffersBounded s) (m : Move) :
    BuffersBounded (applyMove m s) := by
  cases m with
  | poll => exact pollSlot_buffersBounded h
  | inbound bytes => exact deliver_buffersBounded h bytes
  | hostOpen => exact ⟨Nat.zero_le _, Nat.zero_le _⟩
  | hostClose => exact h

theorem applyMoves_buffersBounded {s : State} (h : BuffersBounded s) (ms : List Move) :
    BuffersBounded (applyMoves ms s) := by
  induction ms generalizing s with
  | nil => exact h
  | cons m ms ih => exact ih (applyMove_buffersBounded h m)

theorem performFrame_buffersBounded {s : State} (h : BuffersBounded s) (f : BusFrame) :
    BuffersBounded (performFrame f s) := by
  cases f with
  | w bytes => exact deliver_buffersBounded h bytes
  | r n => exact h

theorem performFrames_buffersBounded {s : State} (h : BuffersBounded s) (fs : List BusFrame)
    (gaps : List (List Move)) : BuffersBounded (performFrames fs gaps s) := by
  induction fs generalizing gaps s with
  | nil => exact applyMoves_buffersBounded h _
  | cons f fs ih => exact ih (performFrame_buffersBounded (applyMoves_buffersBounded h _) f) _

theorem emit_buffersBounded {s : State} (h : BuffersBounded s) (txn : List BusFrame) :
    BuffersBounded (emit txn s) :=
  performFrames_buffersBounded (s := { s with codec := { s.codec with txn := txn } }) h _ _

/-! ### The outputs of a call (R25, R92, R93, R96) -/

theorem outputsAgree_invalidAddressOut {a : Byte} (ha : validAddr a = false) :
    OutputsAgree (invalidAddressOut a) := by
  refine ⟨fun b hb => ?_, fun h => ?_, fun d h => ?_, fun l h => ?_⟩
  · cases hb; exact ⟨rfl, ha⟩
  all_goals cases h

/-- A call between its address check and its end: no data yet, and an effective length of `l` that fits the file. -/
structure CallRunning (l : Nat) (s : State) : Prop where
  buffers : BuffersBounded s
  noData : s.codec.dataOut = none
  effLen : s.codec.effLen = some l
  fits : l ≤ storeSize

theorem callRunning_clampCall {s : State} (h : BuffersBounded s) (a : Byte) (n : Nat) :
    CallRunning (clampedLen a.toNat n) (clampCall a n (startCall s)) :=
  ⟨h, rfl, rfl, clampedLen_le_store _ _⟩

theorem callRunning_identFlags {s : State} (h : BuffersBounded s) :
    CallRunning 1 { s with codec := identFlags CodecOut.blank } :=
  ⟨h, rfl, rfl, by decide⟩

theorem emit_keeps_callRunning {l : Nat} {s : State} (h : CallRunning l s) (txn : List BusFrame) :
    CallRunning l (emit txn s) where
  buffers := emit_buffersBounded h.buffers txn
  noData := by rw [(emit_sameCall txn s).codec]; exact h.noData
  effLen := by rw [(emit_sameCall txn s).codec]; exact h.effLen
  fits := h.fits

/-- A call that ends without data, with `OK` or `TransportFailure`, has outputs that agree. -/
theorem outputsAgree_of_noData {o : CodecOut} (hs : ∀ a, o.status ≠ some (.invalidAddress a))
    (hd : o.dataOut = none) (hl : ∀ l, o.effLen = some l → l ≤ storeSize) : OutputsAgree o :=
  ⟨fun a h => absurd h (hs a), fun _ => hd, fun _ h => (nomatch hd.symm.trans h), hl⟩

/-- A call that ends with `OK` and as many data as its effective length has outputs that agree. -/
theorem outputsAgree_of_data {o : CodecOut} {d : List Byte} (hs : o.status = some .ok) (hd : o.dataOut = some d)
    (hl : o.effLen = some d.length) (hfit : d.length ≤ storeSize) : OutputsAgree o := by
  refine ⟨fun a h => (nomatch hs.symm.trans h), fun h => (nomatch hs.symm.trans h), fun e he => ?_, fun l h => ?_⟩
  · cases hd.symm.trans he
    exact ⟨hs, hl⟩
  · cases hl.symm.trans h
    exact hfit

theorem CallRunning.effLen_le {l : Nat} {s : State} (h : CallRunning l s) :
    ∀ k, s.codec.effLen = some k → k ≤ storeSize := by
  intro k hk
  cases h.effLen.symm.trans hk
  exact h.fits

theorem inv_finishWrite {l : Nat} {s : State} (h : CallRunning l s) (failed : Bool) :
    Inv (finishWrite failed s) := by
  rw [finishWrite_eq]
  exact ⟨h.buffers, outputsAgree_of_noData (fun a => by cases failed <;> nofun) h.noData h.effLen_le⟩

theorem inv_finishRead {l : Nat} {s : State} (h : CallRunning l s) {failed : Bool}
    (hraw : failed = false → s.raw.length = l + s.config.readOffset) : Inv (finishRead failed l s) := by
  rw [finishRead_eq]
  refine ⟨h.buffers, ?_⟩
  cases failed with
  | true => exact outputsAgree_of_noData nofun h.noData h.effLen_le
  | false =>
    have hlen : (decodeRead s.config s.raw l).length = l := decodeRead_length (hraw rfl)
    exact outputsAgree_of_data rfl rfl (by rw [hlen]; exact h.effLen) (by rw [hlen]; exact h.fits)

theorem failAfter_of_not_transportFails {s : State} (h : transportFails s = false) : s.env.failAfter = none := by
  simpa [transportFails] using h

/-- A read or identity call, once its transaction is emitted, ends in the invariant: where the transport succeeds, the
receive region has the size the decoder asks for (R70, R84). -/
theorem inv_finishRead_emit {l : Nat} {s : State} (h : CallRunning l s) (b : List Byte) :
    Inv (finishRead (transportFails s) l (emit [.w b, .r (l + s.config.readOffset)] s)) := by
  refine inv_finishRead (emit_keeps_callRunning h _) fun hok => ?_
  rw [emit_read_raw_length (failAfter_of_not_transportFails hok), emit_config]

theorem exec_call_inv {c : Call} {s t : State} (hs : Inv s) (h : exec c.instr s = .next t) : Inv t := by
  have hb : BuffersBounded s := hs.1
  obtain ⟨a, -, ha, rfl⟩ | ⟨a, n, p, -, -, -, rfl⟩ | ⟨a, n, -, -, rfl⟩ | ⟨-, rfl⟩ := exec_call_cases h
  · exact ⟨hb, outputsAgree_invalidAddressOut ha⟩
  · exact inv_finishWrite (emit_keeps_callRunning (callRunning_clampCall hb a n) _) _
  · rw [readTxn, lengthByte_clampedLen_toNat]
    exact inv_finishRead_emit (callRunning_clampCall hb a n) _
  · exact inv_finishRead_emit (callRunning_identFlags hb) _

/-! ### The invariant of a step -/

theorem applyMove_inv {s : State} (h : Inv s) (m : Move) : Inv (applyMove m s) :=
  ⟨applyMove_buffersBounded h.1 m, (applyMove_sameOutside m s).codec ▸ h.2⟩

/-- Settles O53, by the request the step takes: a move bounds what it puts in the buffers and leaves the outputs, an
`R` frame leaves both, and a call writes outputs that agree. -/
theorem everyStepKeepsTheInvariant : Obligations.EveryStepKeepsTheInvariant := by
  intro s t hs h
  obtain ⟨-, rfl⟩ | ⟨m, rest, -, rfl⟩ | ⟨n, rest, -, rfl⟩ | ⟨c, e, rest, -, hc⟩ := step_cases h
  case inl => exact applyMove_inv hs .poll
  case inr.inl => exact applyMove_inv (s := { s with agenda := rest }) hs m
  case inr.inr.inl => exact hs
  case inr.inr.inr => exact exec_call_inv (s := { s with agenda := rest, env := e }) hs hc

end Sys2Proof.Machine

/-! ## The family of the memory (20_memory.md R33, R40): the in-range length, and the round trip of a write and a
read, for the primitives and for two calls of a run. -/

namespace Sys2Proof.Machine

/-! ### The register file (R33, R40) -/

/-- Settles O20: the minimum of R33 in each order of its two arguments. -/
theorem inRangeLengthCases : Obligations.InRangeLengthCases := by
  intro a n
  rw [inrange_eq]
  refine ⟨fun h => ?inside, fun h h' => ?across, fun h => ?above⟩
  case inside => exact Nat.min_eq_left (by omega)
  case across => exact Nat.min_eq_right (by omega)
  case above => rw [Nat.sub_eq_zero_of_le h, Nat.min_zero]

/-- A read of at most as many cells as a write just stored returns its first bytes, cut to the file (R40). -/
theorem memRead_memWrite (st : Store) (a : Nat) {n : Nat} {bytes : List Byte} (hn : n ≤ bytes.length) :
    memRead (memWrite st a bytes) a n = bytes.take (inrange a n) := by
  apply List.ext_getElem?
  intro j
  rw [memRead_getElem?, List.getElem?_take]
  by_cases hj : j < inrange a n
  · have hjn : j < n := hj.trans_le (inrange_le a n)
    have hcell : a + j < 64 := index_lt_of_lt_inrange hj
    rw [if_pos hj, if_pos hj, readCell_memWrite, if_pos ⟨by omega, by omega, hcell⟩, Nat.add_sub_cancel_left,
      List.getD_eq_getElem?_getD, List.getElem?_eq_getElem (by omega), Option.getD_some]
  · rw [if_neg hj, if_neg hj]

/-- Settles O23: both steps are the primitives on the register file. -/
theorem memReadAfterMemWriteReturnsTheBytes : Obligations.MemReadAfterMemWriteReturnsTheBytes := by
  intro a n bytes s t h hn
  cases h
  exact ⟨_, rfl, memRead_memWrite s.store a.toNat hn⟩

/-! ### The scheduling assumptions do not read the outputs of a call -/

theorem movePolled_codec (m : Move) (s : State) (o : CodecOut) :
    movePolled m { s with codec := o } = movePolled m s := by
  cases m <;> rfl

theorem movesPolled_codec (ms : List Move) (s : State) (o : CodecOut) :
    movesPolled ms { s with codec := o } = movesPolled ms s := by
  induction ms generalizing s with
  | nil => rfl
  | cons m ms ih => rw [movesPolled, movesPolled, applyMove_codec, ih, movePolled_codec]

theorem framePolled_codec (f : BusFrame) (s : State) (o : CodecOut) :
    framePolled f { s with codec := o } = framePolled f s := by
  cases f <;> rfl

theorem framesPolled_codec (fs : List BusFrame) (gaps : List (List Move)) (s : State) (o : CodecOut) :
    framesPolled fs gaps { s with codec := o } = framesPolled fs gaps s := by
  induction fs generalizing gaps s with
  | nil => exact movesPolled_codec _ s o
  | cons f fs ih =>
    rw [framesPolled, framesPolled, applyMoves_codec, performFrame_codec, ih, movesPolled_codec, framePolled_codec]

/-- The moves of a gap do not see that a call has begun. -/
theorem applyMoves_clampCall (ms : List Move) (a : Byte) (n : Nat) (s : State) :
    applyMoves ms (clampCall a n (startCall s)) = clampCall a n (startCall (applyMoves ms s)) :=
  applyMoves_codec ms s _

theorem pollSlot_clampCall (a : Byte) (n : Nat) (s : State) :
    pollSlot (clampCall a n (startCall s)) = clampCall a n (startCall (pollSlot s)) :=
  pollSlot_codec s _

/-! ### What the scheduling assumptions say of a call whose transport succeeds -/

theorem callTxn_write (g : Config) {a : Byte} (ha : a.toNat ≤ 63) (n : Nat) (p : List Byte) :
    callTxn g (.write a n p) = some (writeTxn a (lengthByte (clampedLen a.toNat n)) p) := by
  rw [callTxn, if_pos ((validAddr_iff a).2 ha)]

theorem callTxn_read (g : Config) {a : Byte} (ha : a.toNat ≤ 63) (n : Nat) :
    callTxn g (.read a n) = some (readTxn g a (lengthByte (clampedLen a.toNat n))) := by
  rw [callTxn, if_pos ((validAddr_iff a).2 ha)]

theorem requestPolled_call {c : Call} {e : CallEnv} {s : State} {txn : List BusFrame} (hok : e.failAfter = none)
    (h : callTxn s.config c = some txn) : requestPolled (.call c e) s = framesPolled txn e.gaps s := by
  simp only [requestPolled, h, performedFrames_of_success hok]

theorem requestServiced_call {c : Call} {e : CallEnv} {s : State} {txn : List BusFrame} (hok : e.failAfter = none)
    (h : callTxn s.config c = some txn) : requestServiced (.call c e) s = framesServiced txn e.gaps s := by
  simp only [requestServiced, h, performedFrames_of_success hok]

/-- A check along a run holds of the call that the run begins with. -/
theorem alongRun_call {check : Request → State → Bool} {k : Nat} {s : State} {c : Call} {e : CallEnv}
    {rest : List Request} (ha : s.agenda = .call c e :: rest) (h : alongRun check (k + 1) s = true) :
    check (.call c e) { s with agenda := rest, env := e } = true := by
  simp only [alongRun, takeRequest, ha, Bool.and_eq_true] at h
  exact h.1

/-! ### The transaction on the codec's output (R10) -/

/-- The transaction handed to the transport, before it performs a frame of it. -/
def handOver (txn : List BusFrame) (s : State) : State := { s with codec := { s.codec with txn := txn } }

theorem applyMoves_handOver (txn : List BusFrame) (ms : List Move) (s : State) :
    applyMoves ms (handOver txn s) = handOver txn (applyMoves ms s) := by
  rw [handOver, applyMoves_codec, handOver, (applyMoves_sameOutside ms s).codec]

theorem pollSlot_handOver (txn : List BusFrame) (s : State) :
    pollSlot (handOver txn s) = handOver txn (pollSlot s) :=
  applyMoves_handOver txn [.poll] s

theorem performFrame_handOver (txn : List BusFrame) (f : BusFrame) (s : State) :
    performFrame f (handOver txn s) = handOver txn (performFrame f s) := by
  rw [handOver, performFrame_codec, handOver, (performFrame_sameCall f s).codec]

/-- What the frames of a transaction do, and the transaction on the codec's output beside it. -/
theorem emit_pair_eq_handOver {s : State} (h : s.env.failAfter = none) (f g : BusFrame) :
    emit [f, g] s =
      handOver [f, g] (applyMoves (gapAt s.env 2) (performFrame g (applyMoves (gapAt s.env 1) (performFrame f
        (applyMoves (gapAt s.env 0) s))))) := by
  rw [emit_pair h, ← handOver]
  simp only [applyMoves_handOver, performFrame_handOver]

/-! ### A write transaction that the PSM polls (R60, R71, R82) -/

theorem pollReady_of_rxValid {s : State} (h : s.rxValid = false) : pollReady s = false := by
  simp [pollReady, h]

/-- A data frame as long as the pending write goes to `MemWrite` as it is (R82). -/
theorem dataPhase_of_length {s : State} {f : List Byte} (h : f.length = s.pendLen.toNat) :
    dataPhase f s =
      { s with phase := .awaitingControl, store := memWrite s.store s.pendAddr.toNat f } := by
  have hbytes : dataBytes s f = f := by
    rw [dataBytes, slice_zero, ← h, Nat.min_self, List.take_length]
  rw [dataPhase, hbytes]

/-- The poll of the control frame of a write, sent to a peripheral that is ready (R78, R83). -/
theorem pollSlot_deliver_ctrlWrite {s : State} (h : Ready s) (a l : Byte) :
    pollSlot (deliver [a, dirWrite, l] s) =
      ctrlWrite a l { s with rxData := [a, dirWrite, l], rxValid := false } := by
  obtain ⟨hopen, hphase, -⟩ := h
  rw [pollSlot_deliver hopen (by simp), hphase, classify_ctrlWrite]
  rfl

/-- The poll of the control frame of a read, sent to a peripheral that is ready (R79, R83). -/
theorem pollSlot_deliver_ctrlRead {s : State} (h : Ready s) {a : Byte} (ha : a ≠ identityAddr) (l : Byte) :
    pollSlot (deliver [a, dirRead, l] s) =
      ctrlRead a l { s with rxData := [a, dirRead, l], rxValid := false } := by
  obtain ⟨hopen, hphase, -⟩ := h
  rw [pollSlot_deliver hopen (by simp), hphase, classify_ctrlRead ha]
  rfl

/-- The poll of a data frame as long as the pending write (R82, R83). -/
theorem pollSlot_deliver_data {s : State} (hopen : s.sessionOpen = true) (hphase : s.phase = .awaitingDataCompletion)
    {f : List Byte} (hf : f ≠ []) (h64 : f.length ≤ 64) (hlen : f.length = s.pendLen.toNat) :
    pollSlot (deliver f s) =
      { s with
        rxData := f, rxValid := false, phase := .awaitingControl
        store := memWrite s.store s.pendAddr.toNat f } := by
  rw [pollSlot_deliver hopen h64, hphase, classify_data hf]
  exact dataPhase_of_length hlen

/-- A write transaction made to a ready peripheral under `POLLED_BEFORE_NEXT_FRAME`, once its data frame has been
polled too: its bytes are in the register file and the peripheral is ready again (R71, R82, R113). -/
theorem pollSlot_emit_writeTxn {s : State} {a l : Byte} {p : List Byte} (hr : Ready s)
    (hok : s.env.failAfter = none) (hund : Undisturbed s.env)
    (hpolled : framesPolled (writeTxn a l p) s.env.gaps s = true)
    (h1 : 1 ≤ l.toNat) (h64 : l.toNat ≤ 64) (hp : l.toNat ≤ p.length) :
    pollSlot (emit (writeTxn a l p) s) =
      { handOver (writeTxn a l p) s with
        phase := .awaitingControl, pendAddr := a, pendLen := l
        rxData := p.take l.toNat, rxValid := false
        store := memWrite s.store a.toNat (p.take l.toNat) } := by
  have ⟨hpolls0, hpolls1, hpolls2⟩ := hund
  have ⟨hopen, _, hempty⟩ := hr
  have hlen : (p.take l.toNat).length = l.toNat := List.length_take_of_le hp
  have hgap0 : applyMoves (gapAt s.env 0) s = s := applyMoves_onlyPolls hpolls0 (pollReady_of_rxValid hempty)
  have hgap1 : applyMoves (gapAt s.env 1) (deliver [a, dirWrite, l] s) =
      ctrlWrite a l { s with rxData := [a, dirWrite, l], rxValid := false } := by
    have ⟨_, hctrl⟩ := (framesPolled_pair hund _ _ s).1 hpolled
    rw [hgap0] at hctrl
    rw [applyMoves_of_mayArrive hpolls1 hctrl, pollSlot_deliver_ctrlWrite hr]
  rw [writeTxn, emit_pair_eq_handOver hok, ← writeTxn, pollSlot_handOver, hgap0, performFrame_w, performFrame_w,
    hgap1, pollSlot_applyMoves _ hpolls2, slice_zero]
  have hne : p.take l.toNat ≠ [] := List.ne_nil_of_length_pos (by omega)
  exact congrArg (handOver _) (pollSlot_deliver_data
    (s := ctrlWrite a l { s with rxData := [a, dirWrite, l], rxValid := false }) hopen rfl hne (by omega) hlen)

/-- A write call of length at least 1 to a ready peripheral under `POLLED_BEFORE_NEXT_FRAME` leaves, at the latest
after one more poll, its effective region in the register file and the peripheral ready (R71, R82). -/
theorem exec_opWrite_polled {s : State} {a : Byte} {n : Nat} {p : List Byte} (hr : Ready s)
    (hok : s.env.failAfter = none) (hund : Undisturbed s.env)
    (hpolled : CallPolledBeforeNextFrame (.write a n p) s) (ha : a.toNat ≤ 63) (hn : 1 ≤ n)
    (hp : inrange a.toNat n ≤ p.length) :
    ∃ t, exec (.opWrite a n p) s = .next t ∧ t.agenda = s.agenda ∧ Ready (pollSlot t) ∧
      (pollSlot t).store = memWrite s.store a.toNat (p.take (inrange a.toNat n)) := by
  have hlen : (lengthByte (clampedLen a.toNat n)).toNat = inrange a.toNat n := by
    rw [lengthByte_clampedLen_toNat, clampedLen_eq_inrange]
  have hpos : 1 ≤ inrange a.toNat n := by rw [inrange_eq]; omega
  have h64 : inrange a.toNat n ≤ 64 := inrange_le_store _ _
  rw [CallPolledBeforeNextFrame, requestPolled_call hok (callTxn_write s.config ha n p)] at hpolled
  have hpoll := pollSlot_emit_writeTxn (s := clampCall a n (startCall s)) hr hok hund
    ((framesPolled_codec _ _ s _).trans hpolled) (by rwa [hlen]) (by rwa [hlen]) (by rwa [hlen])
  refine ⟨_, exec_opWrite_of_valid s ha (by rwa [clampedLen_eq_inrange]), ?_, ?_⟩
  · rw [finishWrite_eq, (emit_sameCall _ _).agenda]; rfl
  · rw [finishWrite_eq, pollSlot_codec, hpoll, hlen]
    have ⟨hopen, _, _⟩ := hr
    exact ⟨⟨hopen, rfl, rfl⟩, rfl⟩

/-! ### A read transaction that the PSM serves (R60, R72, R79, R84) -/

/-- What the decoder finds in the receive region of an `R` frame sized for the staged reply of an open session is that
reply (R70, R84). -/
theorem decodeRead_outbound {s : State} {l : Nat} (hopen : s.sessionOpen = true) (hl : s.txData.length = l) :
    decodeRead s.config (outbound (l + s.config.readOffset) s).raw l = s.txData := by
  subst hl
  apply List.ext_getElem?
  intro j
  rw [outbound_raw, decodeRead, slice_getElem?]
  by_cases hj : j < s.txData.length
  · rw [if_pos (by omega), outboundBytes_getElem?, if_pos (by omega), outboundByte, Nat.add_sub_cancel_left,
      if_pos (by simp [hopen, hj]), List.getD_eq_getElem?_getD, List.getElem?_eq_getElem hj, Option.getD_some]
  · rw [if_neg (by omega), List.getElem?_eq_none (by omega)]

/-- The reply is staged: the PSM has polled what waited, and then the control frame of a read (R79). -/
def replyStaged (a l : Byte) (s : State) : State :=
  ctrlRead a l { pollSlot s with rxData := [a, dirRead, l], rxValid := false }

theorem replyStaged_config (a l : Byte) (s : State) : (replyStaged a l s).config = s.config :=
  (pollSlot_sameOutside s).config

theorem replyStaged_ready {s : State} (h : Ready (pollSlot s)) (a l : Byte) : Ready (replyStaged a l s) :=
  ⟨h.1, h.2.1, rfl⟩

/-- A read transaction whose control frame finds the peripheral ready after what waited has been polled, and is polled
before the `R` frame: the receive region is filled from the staged reply (R72, R79, R114). -/
theorem emit_readTxn_serviced {s : State} {a : Byte} (l : Byte) (ha : a ≠ identityAddr) (hr : Ready (pollSlot s))
    (hok : s.env.failAfter = none) (hgap0 : applyMoves (gapAt s.env 0) s = pollSlot s)
    (hgap1 : Polled (gapAt s.env 1)) (hgap2 : OnlyPolls (gapAt s.env 2)) :
    emit (readTxn s.config a l) s =
      handOver (readTxn s.config a l) (outbound (l.toNat + s.config.readOffset) (replyStaged a l s)) := by
  rw [readTxn, emit_pair_eq_handOver hok, hgap0, performFrame_w, applyMoves_polled _ hgap1,
    pollSlot_deliver_ctrlRead hr ha, performFrame_r]
  exact congrArg (handOver _) (applyMoves_onlyPolls hgap2 (pollReady_of_rxValid rfl))

/-- The data that the decoder finds after such a read transaction: the cells of its region (R40, R70). -/
theorem decodeRead_emit_readTxn {s : State} {a l : Byte} (ha : a ≠ identityAddr) (hr : Ready (pollSlot s))
    (hok : s.env.failAfter = none) (hgap0 : applyMoves (gapAt s.env 0) s = pollSlot s)
    (hgap1 : Polled (gapAt s.env 1)) (hgap2 : OnlyPolls (gapAt s.env 2)) (hl : inrange a.toNat l.toNat = l.toNat) :
    decodeRead (emit (readTxn s.config a l) s).config (emit (readTxn s.config a l) s).raw l.toNat =
      memRead (pollSlot s).store a.toNat l.toNat := by
  rw [emit_readTxn_serviced l ha hr hok hgap0 hgap1 hgap2, ← replyStaged_config a l s]
  exact decodeRead_outbound (replyStaged_ready hr a l).1 ((memRead_length ..).trans hl)

theorem inrange_inrange (a n : Nat) : inrange a (inrange a n) = inrange a n := by
  simp only [inrange_eq]; omega

/-- The clamped length reads the cells that the length asked for reads (R66, R87). -/
theorem memRead_clampedLen (st : Store) (a n : Nat) : memRead st a (clampedLen a n) = memRead st a n := by
  rw [memRead, memRead, clampedLen_eq_inrange, inrange_inrange]

/-- A read call under `SERVICED_BEFORE_READ`, whose control frame finds the peripheral ready after what waited has been
polled, returns the in-range cells and leaves the peripheral ready (R72, R79). -/
theorem exec_opRead_serviced {s : State} {a : Byte} (n : Nat) (ha : a.toNat ≤ 63) (hr : Ready (pollSlot s))
    (hok : s.env.failAfter = none) (hund : Undisturbed s.env)
    (hgap0 : applyMoves (gapAt s.env 0) s = pollSlot s)
    (hserv : CallServicedBeforeRead (.read a n) s) :
    ∃ t, exec (.opRead a n) s = .next t ∧ t.codec.status = some .ok ∧
      t.codec.warn = overflowWarning a.toNat n ∧
      t.codec.dataOut = some (memRead (pollSlot s).store a.toNat n) ∧ t.agenda = s.agenda ∧ Ready t := by
  have ⟨_, hpolls1, hpolls2⟩ := hund
  have haddr : a ≠ identityAddr := fun h => absurd (h ▸ ha) (by decide)
  have hlen := lengthByte_clampedLen_toNat a.toNat n
  have hgap1 : Polled (gapAt s.env 1) := by
    rw [CallServicedBeforeRead, requestServiced_call hok (callTxn_read s.config ha n)] at hserv
    have ⟨_, hhead⟩ := (framesServiced_pair ..).1 hserv
    exact polled_of_head hpolls1 hhead
  have hexec := exec_opRead_of_valid n s ha
  rw [transportFails_of_success hok, finishRead_eq] at hexec
  generalize lengthByte (clampedLen a.toNat n) = l at hlen hexec
  have hrc : Ready (pollSlot (clampCall a n (startCall s))) := by rw [pollSlot_clampCall]; exact hr
  have hgap0c : applyMoves (gapAt s.env 0) (clampCall a n (startCall s)) =
      pollSlot (clampCall a n (startCall s)) := by
    rw [applyMoves_clampCall, hgap0, pollSlot_clampCall]
  have hcall := emit_sameCall (readTxn s.config a l) (clampCall a n (startCall s))
  refine ⟨_, hexec, rfl, ?warn, ?data, hcall.agenda, ?ready⟩
  case warn => simp only [hcall.codec]; rfl
  case data =>
    have hfit : inrange a.toNat l.toNat = l.toNat := by rw [hlen, clampedLen_eq_inrange, inrange_inrange]
    have hdata := decodeRead_emit_readTxn (s := clampCall a n (startCall s)) haddr hrc hok hgap0c hgap1 hpolls2 hfit
    rw [hlen, pollSlot_clampCall] at hdata
    exact congrArg some (hdata.trans (memRead_clampedLen ..))
  case ready =>
    have hemit := emit_readTxn_serviced (s := clampCall a n (startCall s)) l haddr hrc hok hgap0c hgap1 hpolls2
    rw [clampCall_config, startCall_config] at hemit
    rw [hemit]
    exact replyStaged_ready hrc a l

/-! ### The round trip of two calls (R40, V7) -/

/-- A write call under `POLLED_BEFORE_NEXT_FRAME` and the polls after it, asked of a ready peripheral: a poll of the
state they leave finds the region written and leaves the peripheral ready. -/
theorem stepN_write_polls {s : State} {a : Byte} {n k : Nat} {p : List Byte} {e : CallEnv} {rest : List Request}
    (m : Nat) (hr : Ready s) (hok : e.failAfter = none) (hund : Undisturbed e) (ha : a.toNat ≤ 63) (hn : 1 ≤ n)
    (hp : inrange a.toNat n ≤ p.length)
    (hagenda : s.agenda = .call (.write a n p) e :: (List.replicate m (.move .poll) ++ rest))
    (hpolled : PolledBeforeNextFrame (k + 1) s) :
    ∃ u, stepN (m + 1) s = .next u ∧ u.agenda = rest ∧ Ready (pollSlot u) ∧
      (pollSlot u).store = memWrite s.store a.toNat (p.take (inrange a.toNat n)) := by
  obtain ⟨t, hexec, htagenda, htready, htstore⟩ := exec_opWrite_polled
    (s := { s with agenda := List.replicate m (.move .poll) ++ rest, env := e }) hr hok hund
    (alongRun_call hagenda hpolled) ha hn hp
  obtain ⟨u, hrun, huagenda, hupoll⟩ := stepN_polls m htagenda
  have hstep : step s = .next t := (step_of_call hagenda).trans hexec
  refine ⟨u, (stepN_succ_of_next hstep m).trans hrun, huagenda, ?_⟩
  rw [hupoll, pollSlot_agenda]
  exact ⟨htready, htstore⟩

/-- The step of a read call under the two scheduling assumptions, in a state that a poll makes ready: the data are the
cells that the poll leaves. -/
theorem step_read_serviced {u : State} {a : Byte} {n : Nat} {e : CallEnv} {rest : List Request}
    (hr : Ready (pollSlot u)) (hok : e.failAfter = none) (hund : Undisturbed e) (ha : a.toNat ≤ 63)
    (hagenda : u.agenda = .call (.read a n) e :: rest)
    (hpolled : PolledBeforeNextFrame 1 u) (hserv : ServicedBeforeRead 1 u) :
    ∃ t, step u = .next t ∧ t.codec.status = some .ok ∧ t.codec.warn = overflowWarning a.toNat n ∧
      t.codec.dataOut = some (memRead (pollSlot u).store a.toNat n) ∧ t.agenda = rest ∧ Ready t := by
  have hpoll : pollSlot { u with agenda := rest, env := e } =
      { pollSlot u with codec := u.codec, env := e, agenda := rest } := pollSlot_outside u u.codec e rest
  have hframes := alongRun_call hagenda hpolled
  rw [requestPolled_call hok (callTxn_read _ ha n), readTxn] at hframes
  have hgap0 := applyMoves_of_mayArrive hund.1 (mayArrive_of_framesPolled hframes)
  obtain ⟨t, hexec, hstatus, hwarn, hdata, htagenda, htready⟩ := exec_opRead_serviced
    (s := { u with agenda := rest, env := e }) n ha (by rw [hpoll]; exact hr) hok hund hgap0
    (alongRun_call hagenda hserv)
  rw [hpoll] at hdata
  exact ⟨t, (step_of_call hagenda).trans hexec, hstatus, hwarn, hdata, htagenda, htready⟩

/-- Settles O40: the write call and the polls leave a state in which a poll finds the region written; the read call
makes that poll before its control frame, if none was made before, and returns the region. -/
theorem readAfterWriteCallReturnsTheData : Obligations.ReadAfterWriteCallReturnsTheData := by
  intro a n m p s e₁ e₂ rest hr hok₁ hund₁ hok₂ hund₂ hn hfit hp hagenda hpolled hserv
  have ha : a.toNat ≤ 63 := by omega
  have hin : inrange a.toNat n = n := (inRangeLengthCases a.toNat n).1 hfit
  have hlen : (p.take n).length = n := List.length_take_of_le hp
  obtain ⟨u, hrun, huagenda, huready, hustore⟩ := stepN_write_polls m hr hok₁ hund₁ ha hn (hin.trans_le hp) hagenda
    hpolled
  obtain ⟨t, hstep, hstatus, hwarn, hdata, htagenda, htready⟩ := step_read_serviced huready hok₂ hund₂ ha huagenda
    (alongRun_rest (m + 1) 1 hpolled hrun) (alongRun_rest (m + 1) 1 hserv hrun)
  rw [hustore, hin, memRead_memWrite _ _ hlen.ge, hin, List.take_take, Nat.min_self] at hdata
  rw [overflowWarning_eq, if_neg (by omega)] at hwarn
  have hrun' : stepN (m + 2) s = .next t := (stepN_add (m + 1) 1 hrun).trans (stepN_succ_of_next hstep 0)
  exact ⟨t, hrun', hstatus, by rw [warnOverflow, hwarn]; rfl, hdata, htagenda, htready⟩

end Sys2Proof.Machine

/-! ## The family of the encoding (30_encoding.md R49 to R62): the decoder and the encoder are inverse, the match and
mask columns are the decoder's classification, and the table's words are control words. -/

namespace Sys2Proof

open Machine (validAddr)

/-! ### The lines of the decoder (R61) -/

theorem decode_nil (ph : Phase) : decode ph [] = .pNone := congrArg FrameClass.instr (classify_nil ph)

theorem decode_data {f : List Byte} (h : f ≠ []) : decode .awaitingDataCompletion f = .pData f :=
  congrArg FrameClass.instr (classify_data h)

theorem decode_short {f : List Byte} (h1 : 1 ≤ f.length) (h2 : f.length ≤ 2) :
    decode .awaitingControl f = .pCtrlShort f :=
  congrArg FrameClass.instr (classify_short h1 h2)

theorem decode_ctrlWrite (a l : Byte) (rest : List Byte) :
    decode .awaitingControl (a :: dirWrite :: l :: rest) = .pCtrlWrite a l :=
  congrArg FrameClass.instr (classify_ctrlWrite a l rest)

theorem decode_ctrlIdent (l : Byte) (rest : List Byte) :
    decode .awaitingControl (identityAddr :: dirRead :: l :: rest) = .pCtrlIdent l :=
  congrArg FrameClass.instr (classify_ctrlIdent l rest)

theorem decode_ctrlRead {a : Byte} (h : a ≠ identityAddr) (l : Byte) (rest : List Byte) :
    decode .awaitingControl (a :: dirRead :: l :: rest) = .pCtrlRead a l :=
  congrArg FrameClass.instr (classify_ctrlRead h l rest)

theorem decode_ctrlRsvd {d : Byte} (h0 : d ≠ dirWrite) (h1 : d ≠ dirRead) (a l : Byte) (rest : List Byte) :
    decode .awaitingControl (a :: d :: l :: rest) = .pCtrlRsvd a d l :=
  congrArg FrameClass.instr (classify_ctrlRsvd h0 h1 a l rest)

/-- The last four lines of R61: a control frame is one of four instructions, by its direction and, for a read, its
address. -/
theorem decode_control_cases (a d l : Byte) (rest : List Byte) :
    (d = dirWrite ∧ decode .awaitingControl (a :: d :: l :: rest) = .pCtrlWrite a l) ∨
    (d = dirRead ∧ a = identityAddr ∧ decode .awaitingControl (a :: d :: l :: rest) = .pCtrlIdent l) ∨
    (d = dirRead ∧ a ≠ identityAddr ∧ decode .awaitingControl (a :: d :: l :: rest) = .pCtrlRead a l) ∨
    (d ≠ dirWrite ∧ d ≠ dirRead ∧ decode .awaitingControl (a :: d :: l :: rest) = .pCtrlRsvd a d l) := by
  by_cases hw : d = dirWrite
  · subst hw
    exact .inl ⟨rfl, decode_ctrlWrite a l rest⟩
  · by_cases hr : d = dirRead
    · subst hr
      by_cases ha : a = identityAddr
      · subst ha
        exact .inr (.inl ⟨rfl, rfl, decode_ctrlIdent l rest⟩)
      · exact .inr (.inr (.inl ⟨rfl, ha, decode_ctrlRead ha l rest⟩))
    · exact .inr (.inr (.inr ⟨hw, hr, decode_ctrlRsvd hw hr a l rest⟩))

/-! ### Conditions on operands (R65, R77 to R82) -/

/-- The identity address is no cell of the register file (R21, R65). -/
theorem ne_identityAddr_of_validAddr {a : Byte} (h : validAddr a = true) : a ≠ identityAddr := by
  rintro rfl
  exact absurd h (by decide)

theorem wellFormed_pData_iff (c : Config) (f : List Byte) :
    (Instr.pData f).wellFormed c = true ↔ 1 ≤ f.length ∧ f.length ≤ c.rxCapacity := by
  simp only [Instr.wellFormed, Bool.and_eq_true, decide_eq_true_eq]

theorem wellFormed_pCtrlShort_iff (c : Config) (f : List Byte) :
    (Instr.pCtrlShort f).wellFormed c = true ↔ 1 ≤ f.length ∧ f.length ≤ 2 := by
  simp only [Instr.wellFormed, Bool.and_eq_true, decide_eq_true_eq]

theorem wellFormed_pCtrlRead_iff (c : Config) (a l : Byte) :
    (Instr.pCtrlRead a l).wellFormed c = true ↔ a ≠ identityAddr := by
  simp only [Instr.wellFormed, bne_iff_ne]

theorem wellFormed_pCtrlRsvd_iff (c : Config) (a d l : Byte) :
    (Instr.pCtrlRsvd a d l).wellFormed c = true ↔ d ≠ dirWrite ∧ d ≠ dirRead := by
  simp only [Instr.wellFormed, Bool.and_eq_true, bne_iff_ne]

/-- A well-formed ENC_READ names a cell, so its frame is no identity query (R65, R68). -/
theorem ne_identityAddr_of_encRead {c : Config} {a l : Byte} (h : (Instr.encRead a l).wellFormed c = true) :
    a ≠ identityAddr := by
  simp only [Instr.wellFormed, Bool.and_eq_true] at h
  obtain ⟨hvalid, -⟩ := h
  exact ne_identityAddr_of_validAddr hvalid

/-! ### Decode after encode (R58, R60, R67 to R69) -/

/-- Settles O46, along the rows that are frames: each is decoded by its own line of R61, whose condition the row's
operands meet. -/
theorem encodedFramesDecodeToTheirInstruction : Obligations.EncodedFramesDecodeToTheirInstruction := by
  intro c i f hwf henc
  cases i with
  | pNone => cases henc; exact decode_nil _
  | pData g =>
    cases henc
    obtain ⟨hpos, -⟩ := (wellFormed_pData_iff c f).1 hwf
    exact decode_data (List.ne_nil_of_length_pos hpos)
  | pCtrlShort g =>
    cases henc
    obtain ⟨hpos, hle⟩ := (wellFormed_pCtrlShort_iff c f).1 hwf
    exact decode_short hpos hle
  | pCtrlWrite a l => cases henc; exact decode_ctrlWrite a l []
  | pCtrlIdent l => cases henc; exact decode_ctrlIdent l []
  | pCtrlRead a l => cases henc; exact decode_ctrlRead ((wellFormed_pCtrlRead_iff c a l).1 hwf) l []
  | pCtrlRsvd a d l =>
    cases henc
    obtain ⟨hw, hr⟩ := (wellFormed_pCtrlRsvd_iff c a d l).1 hwf
    exact decode_ctrlRsvd hw hr a l []
  | encWrite a l p => cases henc; exact decode_ctrlWrite a l []
  | encRead a l => cases henc; exact decode_ctrlRead (ne_identityAddr_of_encRead hwf) l []
  | encIdent => cases henc; exact decode_ctrlIdent identQueryLen []
  | poll | busInbound | busRead | sessionOpen | sessionClose | memRead | memWrite | codecValidate | codecClamp
  | decRead | opWrite | opRead | opIdent => cases henc

/-! ### Encode after decode (R55, R61, R62) -/

/-- A control frame decodes to a well-formed instruction whose frame is its first three bytes (R55). -/
theorem decode_control_wellFormed_encode (c : Config) (a d l : Byte) (rest : List Byte) :
    (decode .awaitingControl (a :: d :: l :: rest)).wellFormed c = true ∧
      encode (decode .awaitingControl (a :: d :: l :: rest)) = some [a, d, l] := by
  obtain ⟨rfl, hdec⟩ | ⟨rfl, rfl, hdec⟩ | ⟨rfl, ha, hdec⟩ | ⟨hw, hr, hdec⟩ := decode_control_cases a d l rest <;>
    rw [hdec]
  · exact ⟨rfl, rfl⟩
  · exact ⟨rfl, rfl⟩
  · exact ⟨(wellFormed_pCtrlRead_iff c a l).2 ha, rfl⟩
  · exact ⟨(wellFormed_pCtrlRsvd_iff c a d l).2 ⟨hw, hr⟩, rfl⟩

theorem decode_awaitingControl_wellFormed_encode (c : Config) (f : List Byte) :
    (decode .awaitingControl f).wellFormed c = true ∧
      encode (decode .awaitingControl f) = some (f.take 3) := by
  obtain rfl | hne := eq_or_ne f []
  · exact ⟨rfl, rfl⟩
  · obtain hle | hge : f.length ≤ 2 ∨ 3 ≤ f.length := by omega
    · have hpos : 1 ≤ f.length := List.length_pos_of_ne_nil hne
      rw [decode_short hpos hle, List.take_of_length_le (by omega)]
      exact ⟨(wellFormed_pCtrlShort_iff c f).2 ⟨hpos, hle⟩, rfl⟩
    · obtain ⟨a, d, l, rest, rfl⟩ := eq_control_of_length hge
      exact decode_control_wellFormed_encode c a d l rest

theorem decode_awaitingDataCompletion_wellFormed_encode {c : Config} {f : List Byte} (h : f.length ≤ c.rxCapacity) :
    (decode .awaitingDataCompletion f).wellFormed c = true ∧
      encode (decode .awaitingDataCompletion f) = some f := by
  obtain rfl | hne := eq_or_ne f []
  · exact ⟨rfl, rfl⟩
  · rw [decode_data hne]
    exact ⟨(wellFormed_pData_iff c f).2 ⟨List.length_pos_of_ne_nil hne, h⟩, rfl⟩

/-- Settles O47, by the phase. -/
theorem everyFrameDecodesToAWellFormedInstruction : Obligations.EveryFrameDecodesToAWellFormedInstruction := by
  intro c ph f hlen
  cases ph with
  | awaitingControl =>
    obtain ⟨hwf, henc⟩ := decode_awaitingControl_wellFormed_encode c f
    exact ⟨hwf, _, henc, rfl⟩
  | awaitingDataCompletion =>
    obtain ⟨hwf, henc⟩ := decode_awaitingDataCompletion_wellFormed_encode hlen
    exact ⟨hwf, _, henc, rfl⟩

/-! ### The control word (R51) -/

/-- R51's sum: byte 0 is the most significant. -/
theorem controlWord_toNat (a d l : Byte) :
    (controlWord a d l).toNat = a.toNat * 2 ^ 16 + d.toNat * 2 ^ 8 + l.toNat := by
  rw [controlWord, BitVec.toNat_append, ← Nat.shiftLeft_add_eq_or_of_lt l.isLt, BitVec.toNat_append,
    ← Nat.shiftLeft_add_eq_or_of_lt d.isLt, Nat.shiftLeft_eq, Nat.shiftLeft_eq]
  ring

theorem controlWord_inj {a d l a' d' l' : Byte} :
    controlWord a d l = controlWord a' d' l' ↔ a = a' ∧ d = d' ∧ l = l' := by
  refine ⟨fun h => ?_, fun ⟨ha, hd, hl⟩ => by rw [ha, hd, hl]⟩
  have hsum := congrArg BitVec.toNat h
  rw [controlWord_toNat, controlWord_toNat] at hsum
  simp only [BitVec.toNat_eq]
  omega

theorem controlWord_and (a d l a' d' l' : Byte) :
    controlWord a d l &&& controlWord a' d' l' = controlWord (a &&& a') (d &&& d') (l &&& l') :=
  BitVec.and_append.trans (congrArg (· ++ (l &&& l')) BitVec.and_append)

/-- A row hits a control word when its match and its mask hold of each byte. -/
theorem hits_controlWord_iff {r : ControlRow} {m₀ m₁ m₂ k₀ k₁ k₂ : Byte} (hm : r.mtch = controlWord m₀ m₁ m₂)
    (hk : r.mask = controlWord k₀ k₁ k₂) (a d l : Byte) :
    r.hits (controlWord a d l) = true ↔ a &&& k₀ = m₀ ∧ d &&& k₁ = m₁ ∧ l &&& k₂ = m₂ := by
  rw [ControlRow.hits, beq_iff_eq, hm, hk, controlWord_and, controlWord_inj]

/-- The row P_CTRL_WRITE looks at the direction only (R78). -/
theorem rowCtrlWrite_hits_iff (a d l : Byte) : rowCtrlWrite.hits (controlWord a d l) = true ↔ d = dirWrite := by
  rw [hits_controlWord_iff (m₀ := 0#8) (m₁ := dirWrite) (m₂ := 0#8) (k₀ := 0#8)
    (k₁ := BitVec.allOnes 8) (k₂ := 0#8) rfl rfl]
  simp only [BitVec.and_allOnes, BitVec.and_zero, true_and, and_true]

/-- The row P_CTRL_IDENT looks at the address and the direction (R80). -/
theorem rowCtrlIdent_hits_iff (a d l : Byte) :
    rowCtrlIdent.hits (controlWord a d l) = true ↔ a = identityAddr ∧ d = dirRead := by
  rw [hits_controlWord_iff (m₀ := identityAddr) (m₁ := dirRead) (m₂ := 0#8) (k₀ := BitVec.allOnes 8)
    (k₁ := BitVec.allOnes 8) (k₂ := 0#8) rfl rfl]
  simp only [BitVec.and_allOnes, BitVec.and_zero, and_true]

/-- The row P_CTRL_READ looks at the direction only (R79). -/
theorem rowCtrlRead_hits_iff (a d l : Byte) : rowCtrlRead.hits (controlWord a d l) = true ↔ d = dirRead := by
  rw [hits_controlWord_iff (m₀ := 0#8) (m₁ := dirRead) (m₂ := 0#8) (k₀ := 0#8)
    (k₁ := BitVec.allOnes 8) (k₂ := 0#8) rfl rfl]
  simp only [BitVec.and_allOnes, BitVec.and_zero, true_and, and_true]

/-- Settles O48: each row is a condition on the bytes, and the four lines of a control frame settle each condition. -/
theorem controlWordRowsMatchTheDecoder : Obligations.ControlWordRowsMatchTheDecoder := by
  intro a d l rest
  simp only [← Bool.not_eq_true, rowCtrlWrite_hits_iff, rowCtrlIdent_hits_iff, rowCtrlRead_hits_iff]
  obtain ⟨rfl, hdec⟩ | ⟨rfl, rfl, hdec⟩ | ⟨rfl, ha, hdec⟩ | ⟨hw, hr, hdec⟩ := decode_control_cases a d l rest <;>
    rw [hdec]
  case inl => simp
  case inr.inl => simp
  case inr.inr.inl => simpa using ha
  case inr.inr.inr => simp only [hw, hr, and_false, false_and, not_false_eq_true, and_self, reduceCtorEq]

/-! ### The classification in the rule's order (R61) -/

/-- Settles O45: a frame of three bytes or more is put in its bytes, and each line is the decoder's. -/
theorem framesAreClassifiedInTheRuleOrder : Obligations.FramesAreClassifiedInTheRuleOrder := by
  intro f
  refine ⟨fun ph hf => ?none, decode_data, fun h1 h3 => decode_short h1 (Nat.le_of_lt_succ h3), fun h3 hd => ?write,
    fun h3 hd ha => ?ident, fun h3 hd ha => ?read, fun h3 hw hr => ?reserved⟩
  case none => rw [hf, decode_nil]
  all_goals obtain ⟨a, d, l, rest, rfl⟩ := eq_control_of_length h3
  case write => cases hd; exact decode_ctrlWrite a l rest
  case ident => cases hd; cases ha; exact decode_ctrlIdent l rest
  case read => cases hd; exact decode_ctrlRead ha l rest
  case reserved => exact decode_ctrlRsvd hw hr a l rest

/-! ### The table's words (R51) -/

/-- Unpacking a control word gives its three bytes in bus order. -/
theorem frameOfWord_controlWord (a d l : Byte) : frameOfWord 3 (controlWord a d l).toNat = [a, d, l] := by
  rw [controlWord_toNat]
  simp only [frameOfWord, List.cons.injEq, and_true, BitVec.toNat_eq, BitVec.toNat_ofNat]
  omega

theorem decodeTableWord_controlWord (a d l : Byte) :
    decodeTableWord 24 (controlWord a d l).toNat = some (decode .awaitingControl [a, d, l]) := by
  rw [← frameOfWord_controlWord a d l]
  rfl

/-- Settles O49: each word is the control word of its three bytes. -/
theorem tableWordsDecode : Obligations.TableWordsDecode :=
  ⟨(decodeTableWord_controlWord 0x3C dirWrite 0x04).trans (congrArg some (decode_ctrlWrite ..)),
    (decodeTableWord_controlWord 0x05 dirRead 0x02).trans (congrArg some (decode_ctrlRead (by decide) ..)),
    (decodeTableWord_controlWord identityAddr dirRead 0x01).trans (congrArg some (decode_ctrlIdent ..)),
    (decodeTableWord_controlWord 0x00 0x07 0x01).trans
      (congrArg some (decode_ctrlRsvd (by decide) (by decide) ..))⟩

end Sys2Proof

/-! ## The family of the codec (40_frame_codec.md R65 to R73): its internal steps, what every call reports, and what a
call does to a peripheral that polls in time. -/

namespace Sys2Proof.Machine

/-! ### The codec's internal steps (R65 to R70) -/

/-- Settles O26: the address check of R65, on each side of its bound. -/
theorem validationRejectsAddressesAbove63 : Obligations.ValidationRejectsAddressesAbove63 := by
  intro a s
  refine ⟨fun ha => ?valid,
    fun ha => ⟨{ s with codec := invalidAddressOut a }, ?invalid, rfl, rfl, rfl, rfl, rfl⟩⟩
  case valid => rw [exec, execCodecValidate, if_pos ((validAddr_iff a).2 ha)]
  case invalid => rw [exec, execCodecValidate, if_neg fun h => absurd ((validAddr_iff a).1 h) (by omega)]

/-- Settles O27: the flags of a clamp, in closed form, on each side of the end of the file. -/
theorem clampingWarnsOnOverflow : Obligations.ClampingWarnsOnOverflow := by
  intro a n s ha
  have hexec : exec (.codecClamp a n) s =
      .next { s with
        codec := { s.codec with
          warn := overflowWarning a.toNat n, effLen := some (clampedLen a.toNat n) } } := rfl
  rw [hexec, overflowWarning_eq, clampedLen_eq]
  refine ⟨fun hover => ?clamped, fun hfit => ?whole⟩
  case clamped => rw [if_pos hover, Nat.min_eq_right (by omega)]
  case whole => rw [if_neg (by omega), Nat.min_eq_left (by omega)]

/-- The write transaction with its frames written out (R67). -/
theorem writeTxn_eq (a l : Byte) (p : List Byte) : writeTxn a l p = [.w [a, 0, l], .w (p.take l.toNat)] := by
  rw [writeTxn, slice_zero]

/-- Settles O28: the transaction where the payload reaches `L` bytes, the refusal where it does not. -/
theorem encodeWriteEmitsControlThenData : Obligations.EncodeWriteEmitsControlThenData := by
  intro a l p s
  refine ⟨fun hlong => ?emitted, fun hshort => ?refused⟩
  case emitted => rw [exec, execEncWrite, if_pos hlong, writeTxn_eq]
  case refused => rw [exec, execEncWrite, if_neg (by omega)]

/-- Settles O29: the statement is the encoder's record update with the direction written out. -/
theorem encodeReadEmitsControlThenRegion : Obligations.EncodeReadEmitsControlThenRegion := fun _ _ _ => rfl

/-- Settles O30: the statement is the encoder's record update with its constants written out. -/
theorem encodeIdentityEmitsFixedQuery : Obligations.EncodeIdentityEmitsFixedQuery := fun _ => rfl

/-- Settles O31: of a buffer of the right size the decoder drops `READ_OFFSET` bytes, which are the lead. -/
theorem decodeReadDiscardsTheOffset : Obligations.DecodeReadDiscardsTheOffset := by
  refine ⟨fun lead data s hlead => ?decoded, fun raw l s hsize => ?refused⟩
  case decoded =>
    have hsize : (lead ++ data).length = data.length + s.config.readOffset := by
      rw [List.length_append, hlead, Nat.add_comm]
    rw [exec, execDecRead, if_pos hsize, decodeRead_eq_drop hsize, List.drop_left' hlead]
  case refused => rw [exec, execDecRead, if_neg hsize]

/-! ### What a call reports, whatever the other agents do (R71 to R73, R93) -/

/-- Settles O33: the call is the emission of the write transaction between its flags and its status, and no frame of
the transaction and no move between them touches what the statement names. -/
theorem writeCallReportsItsOutcome : Obligations.WriteCallReportsItsOutcome := by
  intro a n p s ha hp
  rw [← clampedLen_eq] at hp ⊢
  have hcall := emit_sameCall (writeTxn a (lengthByte (clampedLen a.toNat n)) p) (clampCall a n (startCall s))
  refine ⟨_, exec_opWrite_of_valid s ha hp, ?_⟩
  rw [finishWrite_eq]
  simp only [hcall.codec]
  refine ⟨rfl, overflowWarning_eq .., ?txn, rfl, fun hok => ?ok, fun hfail => ?failure, hcall.config, hcall.memOut,
    hcall.env, hcall.agenda⟩
  case txn => rw [writeTxn_eq, lengthByte_clampedLen_toNat]; rfl
  case ok => rw [transportFails_of_success hok]; rfl
  case failure => rw [transportFails_of_failure hfail]; rfl

/-- A call with an `R` frame, once it ends: its flags and its transaction stand as they were emitted, and the model's
inputs are untouched. -/
theorem finishRead_emit_frame {failed : Bool} {l : Nat} {s t : State} {txn : List BusFrame}
    (ht : finishRead failed l (emit txn s) = t) :
    t.codec.effLen = s.codec.effLen ∧ t.codec.warn = s.codec.warn ∧ t.codec.txn = txn ∧
    t.config = s.config ∧ t.memOut = s.memOut ∧ t.env = s.env ∧ t.agenda = s.agenda := by
  have hcall := emit_sameCall txn s
  rw [finishRead_eq] at ht
  subst ht
  exact ⟨(congrArg CodecOut.effLen hcall.codec :), (congrArg CodecOut.warn hcall.codec :),
    (congrArg CodecOut.txn hcall.codec :), hcall.config, hcall.memOut, hcall.env, hcall.agenda⟩

/-- A call with an `R` frame that the transport completes ends with the receive region after `READ_OFFSET`
(R70, R72, R73). -/
theorem finishRead_emit_of_success {l : Nat} {s t : State} {b : List Byte} (hok : s.env.failAfter = none)
    (ht : finishRead (transportFails s) l (emit [.w b, .r (l + s.config.readOffset)] s) = t) :
    t.codec.status = some .ok ∧ t.raw.length = l + s.config.readOffset ∧
    t.codec.dataOut = some (t.raw.drop s.config.readOffset) := by
  have hraw := emit_read_raw_length hok b (l + s.config.readOffset)
  rw [transportFails_of_success hok, finishRead_eq, emit_config, decodeRead_eq_drop hraw] at ht
  subst ht
  exact ⟨rfl, hraw, rfl⟩

/-- A call that the transport fails ends with `TransportFailure`, and with no data if it had none before (R93). -/
theorem finishRead_emit_of_failure {l : Nat} {s t : State} {txn : List BusFrame} (hfail : s.env.failAfter ≠ none)
    (hdata : s.codec.dataOut = none) (ht : finishRead (transportFails s) l (emit txn s) = t) :
    t.codec.status = some .transportFailure ∧ t.codec.dataOut = none := by
  rw [transportFails_of_failure hfail, finishRead_eq] at ht
  subst ht
  exact ⟨rfl, (congrArg CodecOut.dataOut (emit_sameCall txn s).codec).trans hdata⟩

/-- Settles O35: the call of a read is the emission of its transaction after the clamp, ended by its outcome. -/
theorem readCallReportsItsOutcome : Obligations.ReadCallReportsItsOutcome := by
  intro a n s ha
  have hexec := exec_opRead_of_valid n s ha
  rw [readTxn, lengthByte_clampedLen_toNat] at hexec
  rw [← clampedLen_eq]
  generalize ht : finishRead _ _ _ = t at hexec
  obtain ⟨hlen, hwarn, htxn, hinputs⟩ := finishRead_emit_frame ht
  exact ⟨t, hexec, hlen, hwarn.trans (overflowWarning_eq ..), htxn,
    fun hok => finishRead_emit_of_success (s := clampCall a n (startCall s)) hok ht,
    fun hfail => finishRead_emit_of_failure (s := clampCall a n (startCall s)) hfail rfl ht, hinputs⟩

/-- Settles O36: the identity query is the emission of its transaction after its fixed flags, ended by its outcome. -/
theorem identityCallReportsItsOutcome : Obligations.IdentityCallReportsItsOutcome := by
  intro s
  have hexec : exec .opIdent s = execOpIdent s := rfl
  rw [execOpIdent] at hexec
  generalize ht : finishRead _ _ _ = t at hexec
  obtain ⟨hlen, hwarn, htxn, hinputs⟩ := finishRead_emit_frame ht
  exact ⟨t, hexec, hlen, congrArg Option.isSome hwarn, htxn,
    fun hok => finishRead_emit_of_success (s := { s with codec := identFlags CodecOut.blank }) hok ht,
    fun hfail => finishRead_emit_of_failure (s := { s with codec := identFlags CodecOut.blank }) hfail rfl ht,
    hinputs⟩

/-! ### A write call that the PSM polls in time (R71, R82, R113) -/

/-- The cells after the in-range part of a payload is stored for an access of `n` bytes (R88). -/
theorem readCell_memWrite_take (st : Store) {a n i : Nat} {p : List Byte} (hp : inrange a n ≤ p.length)
    (hi : i < 64) :
    readCell (memWrite st a (p.take (inrange a n))) i =
      if a ≤ i ∧ i < a + n then p.getD (i - a) 0 else readCell st i := by
  have hlen : (p.take (inrange a n)).length = inrange a n := List.length_take_of_le hp
  rw [readCell_memWrite, hlen]
  by_cases h : a ≤ i ∧ i < a + n
  · have hk : i - a < inrange a n := by rw [inrange_eq]; omega
    rw [if_pos h, if_pos (by omega), List.getD_eq_getElem?_getD, List.getD_eq_getElem?_getD,
      List.getElem?_take_of_lt hk]
  · rw [if_neg h, if_neg (by rw [inrange_eq]; omega)]

/-- A transaction whose last gap polls leaves nothing for a further poll (R74). -/
theorem pollSlot_emit_of_polled {s : State} (hok : s.env.failAfter = none) (hgap2 : Polled (gapAt s.env 2))
    (f g : BusFrame) : pollSlot (emit [f, g] s) = emit [f, g] s := by
  rw [emit_pair hok, applyMoves_polled _ hgap2, pollSlot_pollSlot]

/-- The end of a write call is no matter of the PSM. -/
theorem pollSlot_finishWrite (failed : Bool) (s : State) :
    pollSlot (finishWrite failed s) = finishWrite failed (pollSlot s) := by
  rw [finishWrite_eq, finishWrite_eq, pollSlot_codec, (pollSlot_sameOutside s).codec]

/-- Settles O38: the emission of the write transaction, once polled, is the whole next state of the peripheral; the
end of the call and a poll in the last gap add nothing to it. -/
theorem polledWriteStoresExactlyItsRegion : Obligations.PolledWriteStoresExactlyItsRegion := by
  intro a n p s hr hok hund hpolled ha hn hp
  rw [← inrange_eq] at hp ⊢
  have ⟨hopen, _, _⟩ := hr
  have ⟨_, _, hpolls2⟩ := hund
  have hlen : (lengthByte (clampedLen a.toNat n)).toNat = inrange a.toNat n := by
    rw [lengthByte_clampedLen_toNat, clampedLen_eq_inrange]
  have hpos : 1 ≤ inrange a.toNat n := by rw [inrange_eq]; omega
  have hexec := exec_opWrite_of_valid s ha (by rwa [clampedLen_eq_inrange])
  rw [CallPolledBeforeNextFrame, requestPolled_call hok (callTxn_write s.config ha n p)] at hpolled
  have hpoll := pollSlot_emit_writeTxn (s := clampCall a n (startCall s)) hr hok hund
    ((framesPolled_codec _ _ s _).trans hpolled) (by rwa [hlen]) (by rw [hlen]; exact inrange_le_store _ _)
    (by rwa [hlen])
  have hend := (pollSlot_finishWrite false _).trans (congrArg (finishWrite false) hpoll)
  rw [transportFails_of_success hok] at hexec
  refine ⟨_, _, hexec, rfl, exec_poll _, ?lastGap, (pollSlot_sameOutside _).codec, ?region⟩
  case lastGap =>
    intro hmem
    rw [pollSlot_finishWrite]
    exact congrArg _ (pollSlot_emit_of_polled (s := clampCall a n (startCall s)) hok ⟨hpolls2, hmem⟩ _ _)
  case region =>
    rw [hend, hlen]
    exact ⟨⟨hopen, rfl, rfl⟩, rfl, rfl, rfl, rfl, hlen, fun i hi => readCell_memWrite_take s.store hp hi⟩

/-! ### A read and an identity query that the PSM serves in time (R72, R73, R84, R114) -/

/-- In a serviced call with only polls between its frames, the PSM polls between the `W` and the `R` frame (R114). -/
theorem polled_of_callServiced {c : Call} {s : State} {b : List Byte} {m : Nat} (hok : s.env.failAfter = none)
    (hund : Undisturbed s.env) (htxn : callTxn s.config c = some [.w b, .r m])
    (hserv : CallServicedBeforeRead c s) : Polled (gapAt s.env 1) := by
  rw [CallServicedBeforeRead, requestServiced_call hok htxn] at hserv
  have ⟨_, hpolls1, _⟩ := hund
  have ⟨_, hhead⟩ := (framesServiced_pair ..).1 hserv
  exact polled_of_head hpolls1 hhead

/-- A call whose `R` frame is served, of an open session, from a staged reply of the length asked for: it ends with
that reply (R70, R84). -/
theorem finishRead_of_staged {s u : State} {l : Nat} {txn : List BusFrame} (hok : s.env.failAfter = none)
    (hemit : emit txn s = handOver txn (outbound (l + s.config.readOffset) u)) (hconfig : u.config = s.config)
    (hopen : u.sessionOpen = true) (hl : u.txData.length = l) :
    finishRead (transportFails s) l (emit txn s) =
      { outbound (l + s.config.readOffset) u with
        codec := { u.codec with txn := txn, status := some .ok, dataOut := some u.txData } } := by
  rw [transportFails_of_success hok, finishRead_eq, hemit, ← hconfig, ← decodeRead_outbound hopen hl]
  rfl

/-- A read transaction made to a ready peripheral, its control frame polled before the `R` frame: the receive region is
filled from the cells (R72, R79, R114). -/
theorem emit_readTxn_of_ready {s : State} {a : Byte} (l : Byte) (ha : a ≠ identityAddr) (hr : Ready s)
    (hok : s.env.failAfter = none) (hund : Undisturbed s.env) (hgap1 : Polled (gapAt s.env 1)) :
    emit (readTxn s.config a l) s =
      handOver (readTxn s.config a l) (outbound (l.toNat + s.config.readOffset)
        (ctrlRead a l { s with rxData := [a, dirRead, l], rxValid := false })) := by
  have ⟨hpolls0, _, hpolls2⟩ := hund
  have ⟨_, _, hempty⟩ := hr
  have hidle : pollReady s = false := pollReady_of_rxValid hempty
  have hpoll : pollSlot s = s := pollSlot_of_not_ready hidle
  have hgap0 : applyMoves (gapAt s.env 0) s = pollSlot s := (applyMoves_onlyPolls hpolls0 hidle).trans hpoll.symm
  rw [emit_readTxn_serviced l ha (by rwa [hpoll]) hok hgap0 hgap1 hpolls2, replyStaged, hpoll]

/-- Settles O39: the call ends with the staged reply, which is the in-range cells. -/
theorem servicedReadReturnsTheCells : Obligations.ServicedReadReturnsTheCells := by
  intro a n s hr hok hund hserv ha
  have hgap1 : Polled (gapAt s.env 1) := polled_of_callServiced hok hund (callTxn_read s.config ha n) hserv
  have ⟨hopen, hphase, _⟩ := hr
  have haddr : a ≠ identityAddr := ne_identityAddr_of_validAddr ((validAddr_iff a).2 ha)
  have hlen := lengthByte_clampedLen_toNat a.toNat n
  have hexec := exec_opRead_of_valid n s ha
  rw [← clampedLen_eq]
  generalize lengthByte (clampedLen a.toNat n) = l at hlen hexec
  have hfit : inrange a.toNat l.toNat = l.toNat := by rw [hlen, clampedLen_eq_inrange, inrange_inrange]
  rw [← hlen] at hexec ⊢
  have hemit := emit_readTxn_of_ready (s := clampCall a n (startCall s)) l haddr hr hok hund hgap1
  have hend := finishRead_of_staged (s := clampCall a n (startCall s)) hok hemit rfl hopen
    ((memRead_length ..).trans hfit)
  refine ⟨_, _, hexec.trans (congrArg Host.Outcome.next hend), rfl, rfl, (memRead_length ..).trans hfit,
    fun j hj => ?cell, rfl, rfl, rfl, rfl, hopen, hphase, rfl⟩
  case cell => exact (memRead_getElem? ..).trans (if_pos (by rwa [hfit]))

/-- The poll of the control frame of an identity query, sent to a peripheral that is ready (R80, R83). -/
theorem pollSlot_deliver_ctrlIdent {s : State} (h : Ready s) (l : Byte) :
    pollSlot (deliver [identityAddr, dirRead, l] s) =
      ctrlIdent { s with rxData := [identityAddr, dirRead, l], rxValid := false } := by
  obtain ⟨hopen, hphase, -⟩ := h
  rw [pollSlot_deliver hopen (by simp), hphase, classify_ctrlIdent]
  rfl

/-- An identity transaction made to a ready peripheral, its control frame polled before the `R` frame: the receive
region is filled from `PERIPH_ADDR` (R73, R80, R114). -/
theorem emit_identTxn_of_ready {s : State} (hr : Ready s) (hok : s.env.failAfter = none) (hund : Undisturbed s.env)
    (hgap1 : Polled (gapAt s.env 1)) :
    emit (identTxn s.config) s =
      handOver (identTxn s.config) (outbound (1 + s.config.readOffset)
        (ctrlIdent { s with rxData := [identityAddr, dirRead, identQueryLen], rxValid := false })) := by
  have ⟨hpolls0, _, hpolls2⟩ := hund
  have ⟨_, _, hempty⟩ := hr
  rw [identTxn, emit_pair_eq_handOver hok, applyMoves_onlyPolls hpolls0 (pollReady_of_rxValid hempty), performFrame_w,
    applyMoves_polled _ hgap1, pollSlot_deliver_ctrlIdent hr, performFrame_r]
  exact congrArg (handOver _) (applyMoves_onlyPolls hpolls2 (pollReady_of_rxValid rfl))

/-- Settles O41: the query ends with the staged reply, which is `PERIPH_ADDR` alone. -/
theorem servicedIdentityQueryReturnsPeripheralAddress :
    Obligations.ServicedIdentityQueryReturnsPeripheralAddress := by
  intro s hr hok hund hserv
  have hgap1 : Polled (gapAt s.env 1) := polled_of_callServiced hok hund rfl hserv
  have ⟨hopen, hphase, _⟩ := hr
  have hemit := emit_identTxn_of_ready (s := { s with codec := identFlags CodecOut.blank }) hr hok hund hgap1
  have hend := finishRead_of_staged (s := { s with codec := identFlags CodecOut.blank }) hok hemit rfl hopen rfl
  exact ⟨_, congrArg Host.Outcome.next hend, rfl, rfl, rfl, rfl, rfl, rfl, hopen, hphase, rfl⟩

end Sys2Proof.Machine

/-! ## The family of the protocol state machine (41_protocol_fsm.md R74 to R86): the frame classes, the poll and its
transitions, the transport's actions, and which steps may change the phase and the register file. -/

namespace Sys2Proof.Machine

/-! ### The frame classes (R76 to R82) -/

/-- Settles O5: the statement is the record update of R78. -/
theorem writeControlFrameRetainsPendingWrite : Obligations.WriteControlFrameRetainsPendingWrite := fun _ _ _ => rfl

/-- Settles O7: the statement is the record update of R80. -/
theorem identityReadStagesPeripheralAddress : Obligations.IdentityReadStagesPeripheralAddress := fun _ _ => rfl

/-- Settles O6: the reply is the register file's own read, which returns the in-range cells in order. -/
theorem readControlFrameStagesCells : Obligations.ReadControlFrameStagesCells := by
  intro a l s
  refine ⟨ctrlRead a l s, rfl, rfl, ?length, fun j hj => ?cell⟩
  case length => rw [ctrlRead_txData, memRead_length, inrange_eq]
  case cell => rw [ctrlRead_txData, memRead_getElem?, inrange_eq, if_pos hj]

theorem ctrlRsvd_of_ignore {s : State} (h : s.config.reservedDirPolicy = .ignore) (a l : Byte) :
    ctrlRsvd a l s = s := by
  simp only [ctrlRsvd, h]

theorem ctrlRsvd_of_asWrite {s : State} (h : s.config.reservedDirPolicy = .asWrite) (a l : Byte) :
    ctrlRsvd a l s = ctrlWrite a l s := by
  simp only [ctrlRsvd, h]

theorem ctrlRsvd_of_asRead {s : State} (h : s.config.reservedDirPolicy = .asRead) (a l : Byte) :
    ctrlRsvd a l s = if a = identityAddr then ctrlIdent s else ctrlRead a l s := by
  simp only [ctrlRsvd, h]

/-- Settles O8: under each policy a reserved direction acts as the class the policy names. -/
theorem reservedDirectionFollowsPolicy : Obligations.ReservedDirectionFollowsPolicy := by
  intro a d l s _ _
  have hexec : exec (.pCtrlRsvd a d l) s = .next (ctrlRsvd a l s) := rfl
  rw [hexec]
  refine ⟨fun hp => ?ignore, fun hp => ?asWrite, fun hp ha => ?asIdentity, fun hp ha => ?asRead, _, rfl⟩
  case ignore => rw [ctrlRsvd_of_ignore hp]
  case asWrite => rw [ctrlRsvd_of_asWrite hp]; rfl
  case asIdentity => rw [ctrlRsvd_of_asRead hp, if_pos ha]; rfl
  case asRead => rw [ctrlRsvd_of_asRead hp, if_neg ha]; rfl

/-- The action of a data frame with the bytes it stores written out (R82). -/
theorem dataPhase_eq (f : List Byte) (s : State) :
    dataPhase f s =
      { s with
        store := memWrite s.store s.pendAddr.toNat (f.take (min s.pendLen.toNat f.length))
        phase := .awaitingControl } := by
  rw [dataPhase, dataBytes, slice_zero]

/-- The cells after the first `k` bytes of a frame are stored (R82, R88). -/
theorem readCell_memWrite_take_of_le (st : Store) (a : Nat) {f : List Byte} {k i : Nat} (hk : k ≤ f.length)
    (hi : i < 64) :
    readCell (memWrite st a (f.take k)) i =
      if a ≤ i ∧ i < a + k then f.getD (i - a) 0 else readCell st i := by
  rw [readCell_memWrite, List.length_take_of_le hk]
  by_cases h : a ≤ i ∧ i < a + k
  · rw [if_pos h, if_pos (by omega), List.getD_eq_getElem?_getD, List.getD_eq_getElem?_getD,
      List.getElem?_take_of_lt (by omega)]
  · rw [if_neg h, if_neg (by omega)]

/-- Settles O9: the stored bytes are the frame's first `min(pend_len, |f|)`. -/
theorem dataFrameWritesPendingCells : Obligations.DataFrameWritesPendingCells := by
  intro f s
  refine ⟨dataPhase f s, rfl, rfl, fun i hi => ?_⟩
  rw [dataPhase_eq]
  exact readCell_memWrite_take_of_le s.store _ (Nat.min_le_right ..) hi

/-! ### The poll (R74, R75) -/

theorem pollReady_iff (s : State) : pollReady s = true ↔ s.sessionOpen = true ∧ s.rxValid = true := by
  rw [pollReady, Bool.and_eq_true]

/-- A poll of a waiting frame runs the instruction the frame decodes to, in the state in which it is consumed. -/
theorem exec_poll_of_ready {s : State} (h : pollReady s = true) :
    exec .poll s = exec (decode s.phase s.rxData) (consumed s) := by
  rw [exec_poll, pollSlot_of_ready h, decode, exec_frameClass]

/-- What a poll leaves, from the instruction the waiting frame decodes to. -/
theorem pollSlot_of_decode {s t : State} {i : Instr} (hr : pollReady s = true) (hdec : decode s.phase s.rxData = i)
    (hi : exec i (consumed s) = .next t) : pollSlot s = t := by
  rw [← hdec, ← exec_poll_of_ready hr, exec_poll] at hi
  exact Host.Outcome.next.inj hi

/-- Settles O10: the poll's two cases, by whether a frame waits in an open session. -/
theorem pollRunsTheDecodedFrame : Obligations.PollRunsTheDecodedFrame := by
  intro s
  refine ⟨fun hidle => ?idle, fun hopen hvalid => exec_poll_of_ready ((pollReady_iff s).2 ⟨hopen, hvalid⟩),
    pollSlot s, exec_poll s⟩
  case idle =>
    have hr : pollReady s = false := Bool.and_eq_false_iff.2 hidle
    rw [exec_poll, pollSlot_of_not_ready hr]

/-- Settles O4: the two classes have no action, and a frame of either class leaves its poll with the slot consumed. -/
theorem ignoredFramesChangeNothing : Obligations.IgnoredFramesChangeNothing := by
  refine ⟨fun _ => rfl, fun _ _ => rfl, fun s hopen hvalid hframe => ?_⟩
  have hr : pollReady s = true := (pollReady_iff s).2 ⟨hopen, hvalid⟩
  obtain hnil | ⟨hphase, hpos, hle⟩ := hframe
  case inl =>
    have hdec : decode s.phase s.rxData = .pNone := by rw [hnil, decode_nil]
    rw [exec_poll_of_ready hr, hdec]; rfl
  case inr =>
    have hdec : decode s.phase s.rxData = .pCtrlShort s.rxData := by rw [hphase, decode_short hpos hle]
    rw [exec_poll_of_ready hr, hdec]; rfl

/-- The reserved directions are 2 to 255 (R52). -/
theorem two_le_direction_iff (d : Byte) : 2 ≤ d.toNat ↔ d ≠ dirWrite ∧ d ≠ dirRead := by
  bv_omega

/-- Settles O11: each row of R75 is a line of the classification (O45), whose instruction then acts. -/
theorem pollFollowsTheTransitionTable : Obligations.PollFollowsTheTransitionTable := by
  intro s hopen
  refine ⟨pollSlot s, exec_poll s, fun hempty => pollSlot_of_not_ready (pollReady_of_rxValid hempty),
    fun hvalid => ?_⟩
  obtain ⟨hnone, hdata, hshort, hwrite, hident, hread, hrsvd⟩ := framesAreClassifiedInTheRuleOrder s.rxData
  have hr : pollReady s = true := (pollReady_iff s).2 ⟨hopen, hvalid⟩
  refine ⟨fun hf => pollSlot_of_decode hr (hnone _ hf) rfl, fun hp h1 h2 => ?short, fun hp h3 hd => ?write,
    fun hp h3 hd ha => ?read, fun hp h3 hd ha => ?ident, fun hp h3 hd hpolicy => ?reserved, fun hp hf => ?data⟩
  case short => exact pollSlot_of_decode hr (hp ▸ hshort h1 (Nat.lt_succ_of_le h2)) rfl
  case write => exact pollSlot_of_decode hr (hp ▸ hwrite h3 hd) rfl
  case read => exact pollSlot_of_decode hr (hp ▸ hread h3 hd ha) rfl
  case ident => exact pollSlot_of_decode hr (hp ▸ hident h3 hd ha) rfl
  case reserved =>
    obtain ⟨hw, hrd⟩ := (two_le_direction_iff _).1 hd
    have hdec := hrsvd h3 hw hrd
    rw [← hp] at hdec
    exact pollSlot_of_decode hr hdec (congrArg _ (ctrlRsvd_of_ignore (s := consumed s) hpolicy _ _))
  case data =>
    have hdec := hdata hf
    rw [← hp] at hdec
    exact pollSlot_of_decode hr hdec (congrArg _ (dataPhase_eq s.rxData (consumed s)))

/-! ### The entry to `AwaitingDataCompletion` (R86 (4)) -/

theorem classify_eq_ctrlWrite {ph : Phase} {f : List Byte} {a l : Byte} (h : classify ph f = .ctrlWrite a l) :
    ∃ rest, f = a :: dirWrite :: l :: rest := by
  unfold classify at h
  split at h
  case h_5 =>
    split_ifs at h with hw
    cases h
    exact ⟨_, by rw [hw]⟩
  all_goals cases h

theorem classify_eq_ctrlRsvd {ph : Phase} {f : List Byte} {a d l : Byte} (h : classify ph f = .ctrlRsvd a d l) :
    d ≠ dirWrite ∧ d ≠ dirRead ∧ ∃ rest, f = a :: d :: l :: rest := by
  unfold classify at h
  split at h
  case h_5 =>
    split_ifs at h with hw hr
    cases h
    exact ⟨hw, hr, _, rfl⟩
  all_goals cases h

/-- The classes whose action enters `AwaitingDataCompletion`: a write, and a reserved direction under `AsWrite`, each
with the effect of a write control frame (R78, R81). -/
theorem frameAction_enters_pending {c : FrameClass} {s : State} (hs : s.phase = .awaitingControl)
    (h : (frameAction c s).phase = .awaitingDataCompletion) :
    ∃ a l, frameAction c s = ctrlWrite a l s ∧
      (c = .ctrlWrite a l ∨ ∃ d, c = .ctrlRsvd a d l ∧ s.config.reservedDirPolicy = .asWrite) := by
  cases c with
  | ctrlWrite a l => exact ⟨a, l, rfl, .inl rfl⟩
  | ctrlRsvd a d l =>
    rw [frameAction] at h ⊢
    obtain ⟨-, e⟩ | ⟨hp, e⟩ | ⟨-, -, e⟩ | ⟨-, -, e⟩ := ctrlRsvd_cases a l s
    case inr.inl => exact ⟨a, l, e, .inr ⟨d, rfl, hp⟩⟩
    all_goals rw [e] at h; cases hs.symm.trans h
  | data f => cases h
  | none | ctrlShort f | ctrlIdent l | ctrlRead a l => cases hs.symm.trans h

/-- Settles O12: the class that entered the phase is one of two, and either one's frame has its operands in bytes 0
and 2. -/
theorem pendingWriteEnteredOnlyByWriteFrame : Obligations.PendingWriteEnteredOnlyByWriteFrame := by
  intro s t h hs ht
  cases h
  cases hr : pollReady s with
  | false => rw [pollSlot_of_not_ready hr, hs] at ht; cases ht
  | true =>
    obtain ⟨hopen, hvalid⟩ := (pollReady_iff s).1 hr
    rw [pollSlot_of_ready hr] at ht ⊢
    obtain ⟨a, l, haction, hclass | ⟨d, hclass, hpolicy⟩⟩ := frameAction_enters_pending (s := consumed s) hs ht <;>
      rw [haction]
    case inl =>
      obtain ⟨rest, hf⟩ := classify_eq_ctrlWrite hclass
      rw [hf]
      exact ⟨hopen, hvalid, Nat.le_add_left .., .inl rfl, rfl, rfl⟩
    case inr =>
      obtain ⟨hw, hrd, rest, hf⟩ := classify_eq_ctrlRsvd hclass
      rw [hf]
      exact ⟨hopen, hvalid, Nat.le_add_left .., .inr ⟨(two_le_direction_iff d).2 ⟨hw, hrd⟩, hpolicy⟩, rfl, rfl⟩

/-! ### Where the register file changes (R86 (5)) -/

/-- The poll that stores: a non-empty frame of an open session completes a pending write (R82). -/
theorem moveStores_poll_iff (s : State) :
    moveStores .poll s = true ↔
      s.sessionOpen = true ∧ s.rxValid = true ∧ s.rxData ≠ [] ∧ s.phase = .awaitingDataCompletion := by
  rw [moveStores, Bool.and_eq_true, Bool.and_eq_true, pollReady_iff, beq_iff_eq, bne_iff_ne]
  tauto

/-- The start and the end of a call and the transaction itself write no cell: what changes one is a move. -/
theorem exec_call_store {c : Call} {s t : State} (h : exec c.instr s = .next t) (hc : callStores c s = false) :
    t.store = s.store := by
  have hemit {txn : List BusFrame} (htxn : callTxn s.config c = some txn) (o : CodecOut) :
      (emit txn { s with codec := o }).store = s.store := by
    rw [callStores, htxn] at hc
    exact emit_store (s := { s with codec := o }) ((framesStore_codec ..).trans hc)
  obtain ⟨a, -, -, rfl⟩ | ⟨a, n, p, rfl, ha, -, rfl⟩ | ⟨a, n, rfl, ha, rfl⟩ | ⟨rfl, rfl⟩ := exec_call_cases h
  case inl => rfl
  case inr.inl =>
    rw [finishWrite_eq]
    exact hemit (callTxn_write s.config ((validAddr_iff a).1 ha) n p) _
  case inr.inr.inl =>
    rw [finishRead_eq]
    exact hemit (callTxn_read s.config ((validAddr_iff a).1 ha) n) _
  case inr.inr.inr =>
    rw [finishRead_eq]
    exact hemit rfl _

/-- Settles O14, by the request the step takes: a move that changes a cell is one that stores, an `R` frame changes
none, and a call only by such a move. -/
theorem registerFileChangesOnlyInDataPhase : Obligations.RegisterFileChangesOnlyInDataPhase := by
  intro s t h hne
  obtain ⟨ha, rfl⟩ | ⟨m, rest, ha, rfl⟩ | ⟨n, rest, ha, rfl⟩ | ⟨c, e, rest, ha, hc⟩ := step_cases h
  case inl =>
    have hstores : moveStores .poll s = true := eq_true_of_ne_false fun hno => hne (applyMove_store hno)
    exact .inl ⟨.inl ha, (moveStores_poll_iff s).1 hstores⟩
  case inr.inl =>
    have hstores : moveStores m { s with agenda := rest } = true :=
      eq_true_of_ne_false fun hno => hne (applyMove_store hno)
    cases m with
    | poll => exact .inl ⟨.inr ⟨rest, ha⟩, (moveStores_poll_iff { s with agenda := rest }).1 hstores⟩
    | hostOpen => exact .inr (.inl ⟨rest, ha⟩)
    | inbound bytes | hostClose => cases hstores
  case inr.inr.inl => exact absurd (outbound_store ..) hne
  case inr.inr.inr =>
    exact .inr (.inr ⟨c, e, rest, ha, eq_true_of_ne_false fun hno =>
      hne (exec_call_store (s := { s with agenda := rest, env := e }) hc hno)⟩)

/-! ### The agenda and a waiting PSM (R85, R108, R111) -/

/-- Settles O15: with nothing asked and nothing received a step is a poll that finds nothing. -/
theorem peripheralWaitsForever : Obligations.PeripheralWaitsForever := by
  intro k s ha hempty
  have hstep : step s = .next s := by
    rw [step_of_empty ha, pollSlot_of_not_ready (pollReady_of_rxValid hempty)]
  induction k with
  | zero => rfl
  | succ k ih => rw [stepN_succ_of_next hstep, ih]

theorem exec_call_agenda {c : Call} {s t : State} (h : exec c.instr s = .next t) : t.agenda = s.agenda := by
  obtain ⟨a, -, -, rfl⟩ | ⟨a, n, p, -, -, -, rfl⟩ | ⟨a, n, -, -, rfl⟩ | ⟨-, rfl⟩ := exec_call_cases h
  · rfl
  · rw [finishWrite_eq]; exact (emit_sameCall ..).agenda
  · rw [finishRead_eq]; exact (emit_sameCall ..).agenda
  · rw [finishRead_eq]; exact (emit_sameCall ..).agenda

/-- A step takes the first request, and nothing it runs writes the agenda. -/
theorem step_agenda {s t : State} (h : step s = .next t) : t.agenda = s.agenda.tail := by
  obtain ⟨ha, rfl⟩ | ⟨m, rest, ha, rfl⟩ | ⟨n, rest, ha, rfl⟩ | ⟨c, e, rest, ha, hc⟩ := step_cases h <;> rw [ha]
  · exact (pollSlot_sameOutside s).agenda.trans ha
  · exact (applyMove_sameOutside m _).agenda
  · exact outbound_agenda ..
  · exact exec_call_agenda hc

theorem stepN_agenda {k : Nat} {s t : State} (h : stepN k s = .next t) : t.agenda = s.agenda.drop k := by
  induction k generalizing s with
  | zero => cases h; rfl
  | succ k ih =>
    obtain ⟨u, hs, hu⟩ := stepN_succ_next h
    rw [ih hu, step_agenda hs, List.drop_tail]

/-- Settles O52: each step takes one request, so `k` steps take `k`. -/
theorem everyStepTakesOneRequest : Obligations.EveryStepTakesOneRequest := by
  refine ⟨fun s t h => step_agenda h, fun k s t hk h => ?_⟩
  have hempty : t.agenda = [] := (stepN_agenda h).trans (List.drop_eq_nil_of_le hk)
  exact ⟨hempty, step_of_empty hempty⟩

/-- Settles O50, by the agenda: with nothing asked a step is the poll of O10, else it runs the request at its head. -/
theorem stepRunsTheDecodedInstruction : Obligations.StepRunsTheDecodedInstruction := by
  intro s
  obtain ⟨hidle, hframe, -⟩ := pollRunsTheDecodedFrame s
  refine ⟨fun i ha hopen hvalid hdec _ => ?frame, fun ha h => ?idle,
    fun m rest ha => (step_of_move ha).trans (exec_move m _).symm, fun n rest ha => step_of_outbound ha,
    fun c e rest ha => step_of_call ha⟩
  case frame => rw [step_of_empty ha, ← exec_poll, hframe hopen hvalid, hdec]
  case idle => rw [step_of_empty ha, ← exec_poll, hidle h]

/-! ### The transport's actions (R83, R84) -/

/-- Settles O16: the two cases of a delivery. -/
theorem inboundFrameFillsTheSlot : Obligations.InboundFrameFillsTheSlot := by
  intro bytes s
  have hexec : exec (.busInbound bytes) s = .next (deliver bytes s) := rfl
  rw [hexec]
  refine ⟨fun hopen => ?delivered, fun hclosed => by rw [deliver_of_closed hclosed]⟩
  case delivered => rw [deliver_of_open hopen, List.take_eq_take_min, Nat.min_comm]

/-- A position of an `R` frame of an open session that holds a byte of the staged reply. -/
theorem outboundByte_of_reply {s : State} (hopen : s.sessionOpen = true) (k : Nat) {j : Nat}
    (hge : s.config.readOffset ≤ j) (hlt : j < s.config.readOffset + s.txData.length) :
    some (outboundByte s k j) = s.txData[j - s.config.readOffset]? := by
  have hj : j - s.config.readOffset < s.txData.length := by omega
  rw [outboundByte, if_pos (by simp [hopen, hge, hj]), List.getD_eq_getElem?_getD, List.getElem?_eq_getElem hj,
    Option.getD_some]

/-- A position before the staged reply or past it is free (U3, U4). -/
theorem outboundByte_of_outside {s : State} (k : Nat) {j : Nat}
    (h : j < s.config.readOffset ∨ s.config.readOffset + s.txData.length ≤ j) :
    outboundByte s k j = Config.freeByte (k + j) := by
  rw [outboundByte, if_neg]
  simp only [Bool.and_eq_true, decide_eq_true_eq]
  omega

/-- Settles O18: the receive region is filled position by position, from the reply or from a draw. -/
theorem outboundReadServesTheStagedReply : Obligations.OutboundReadServesTheStagedReply := by
  intro n s hopen
  refine ⟨outbound n s, rfl, rfl, outboundBytes_length s n, fun j hge hn hlt => ?reply, fun j hn hout => ?free⟩
  case reply => rw [outbound_raw, outboundBytes_getElem?, if_pos hn, outboundByte_of_reply hopen _ hge hlt]
  case free => rw [outbound_raw, outboundBytes_getElem?, if_pos hn, outboundByte_of_outside _ hout]

end Sys2Proof.Machine

/-! ## The family of the register file (42_register_store.md R87, R88): the two primitives, cell by cell and with all
they leave unchanged. -/

namespace Sys2Proof.Machine

/-- Settles O22: in a cell of the file, the in-range part of `MemWrite`'s closed form is the whole region. -/
theorem memWriteStoresExactlyTheRegion : Obligations.MemWriteStoresExactlyTheRegion := by
  intro a bytes s
  refine ⟨{ s with store := memWrite s.store a.toNat bytes }, rfl, rfl, fun i hi => ?_⟩
  calc readCell (memWrite s.store a.toNat bytes) i
      = if a.toNat ≤ i ∧ i < a.toNat + bytes.length ∧ i < 64 then bytes.getD (i - a.toNat) 0
        else readCell s.store i := readCell_memWrite ..
    _ = if a.toNat ≤ i ∧ i < a.toNat + bytes.length then bytes.getD (i - a.toNat) 0
        else readCell s.store i := by simp only [hi, and_true]

/-- Settles O21: the length and the bytes of `MemRead`, whose result is all the step writes. -/
theorem memReadReturnsCells : Obligations.MemReadReturnsCells := by
  intro a n s
  refine ⟨{ s with memOut := memRead s.store a.toNat n.toNat }, rfl, rfl, memRead_length .., fun j hj => ?cell⟩
  case cell => exact (memRead_getElem? ..).trans (if_pos hj)

end Sys2Proof.Machine

/-! ## The family of the exceptions (60_exceptions.md R91 to R101): where a step stops, how a call with an invalid
address ends, the codes, and the host's open and close. -/

namespace Sys2Proof.Machine

/-! ### Calls that end before they emit, and the call that stops (R92, R95, R97) -/

theorem not_validAddr_iff (a : Byte) : ¬ validAddr a = true ↔ 63 < a.toNat := by
  rw [validAddr_iff, Nat.not_le]

/-- A write call with an invalid address ends at the address check, before its payload is looked at (R92, R96). -/
theorem exec_opWrite_of_invalid {a : Byte} (n : Nat) (p : List Byte) (s : State) (ha : 63 < a.toNat) :
    exec (.opWrite a n p) s = .next { s with codec := invalidAddressOut a } := by
  rw [exec, execOpWrite, if_neg ((not_validAddr_iff a).2 ha)]

/-- A read call with an invalid address ends at the address check (R92). -/
theorem exec_opRead_of_invalid {a : Byte} (n : Nat) (s : State) (ha : 63 < a.toNat) :
    exec (.opRead a n) s = .next { s with codec := invalidAddressOut a } := by
  rw [exec, execOpRead, if_neg ((not_validAddr_iff a).2 ha)]

/-- A write call with a valid address and fewer payload bytes than its effective length is refused (D14). -/
theorem exec_opWrite_of_short {a : Byte} {n : Nat} {p : List Byte} (s : State) (ha : a.toNat ≤ 63)
    (hp : p.length < clampedLen a.toNat n) : exec (.opWrite a n p) s = .refused .payloadTooShort := by
  rw [exec, execOpWrite, if_pos ((validAddr_iff a).2 ha), if_neg (Nat.not_le.2 hp)]

/-- A read call always answers a next state, whatever its address. -/
theorem exec_opRead_answers (a : Byte) (n : Nat) (s : State) : ∃ t, exec (.opRead a n) s = .next t := by
  obtain ha | ha := Nat.lt_or_ge 63 a.toNat
  · exact ⟨_, exec_opRead_of_invalid n s ha⟩
  · exact ⟨_, exec_opRead_of_valid n s ha⟩

/-- A write call answers a next state but where its address is valid and its payload too short. -/
theorem exec_opWrite_answers_or_short (a : Byte) (n : Nat) (p : List Byte) (s : State) :
    (∃ t, exec (.opWrite a n p) s = .next t) ∨
    exec (.opWrite a n p) s = .refused .payloadTooShort ∧ a.toNat ≤ 63 ∧ p.length < clampedLen a.toNat n := by
  obtain ha | ha := Nat.lt_or_ge 63 a.toNat
  · exact .inl ⟨_, exec_opWrite_of_invalid n p s ha⟩
  · obtain hp | hp := Nat.lt_or_ge p.length (clampedLen a.toNat n)
    · exact .inr ⟨exec_opWrite_of_short s ha hp, ha, hp⟩
    · exact .inl ⟨_, exec_opWrite_of_valid s ha hp⟩

/-- Settles O51, by the request the step takes: a poll, a move and an `R` frame always answer, and of the calls only
a write can fail to. -/
theorem stepStopsOnlyOnAShortPayload : Obligations.StepStopsOnlyOnAShortPayload := by
  intro s
  match ha : s.agenda with
  | [] => exact .inl ⟨_, step_of_empty ha⟩
  | .move m :: rest => exact .inl ⟨_, step_of_move ha⟩
  | .outbound n :: rest => exact .inl ⟨_, step_of_outbound ha⟩
  | .call .identity e :: rest => exact .inl ⟨_, step_of_call ha⟩
  | .call (.read a n) e :: rest =>
    rw [step_of_call ha]
    exact .inl (exec_opRead_answers a n _)
  | .call (.write a n p) e :: rest =>
    rw [step_of_call ha]
    refine (exec_opWrite_answers_or_short a n p _).imp_right fun ⟨hstop, hvalid, hshort⟩ => ?_
    exact ⟨hstop, a, n, p, e, rest, rfl, hvalid, clampedLen_eq .. ▸ hshort⟩

/-- Settles O32: either call ends at the address check with the outputs of an invalid address. -/
theorem invalidAddressEndsTheCallUnseen : Obligations.InvalidAddressEndsTheCallUnseen := fun a n p s ha =>
  ⟨{ s with codec := invalidAddressOut a }, exec_opWrite_of_invalid n p s ha, exec_opRead_of_invalid n s ha,
    rfl, rfl, rfl, rfl, rfl⟩

/-! ### The codes (R16, R91) -/

/-- Code 3 is that of no status (R91). -/
theorem statusCode_ne_three (st : Status) : statusCode st ≠ 3 := by
  cases st with
  | ok => decide
  | invalidAddress a => rw [statusCode]; decide
  | transportFailure => decide

/-- Settles O37: each code by its constructor, and 3 excluded by cases on the status. -/
theorem statusAndPhaseCodes : Obligations.StatusAndPhaseCodes :=
  ⟨rfl, fun _ => rfl, rfl, statusCode_ne_three, rfl, rfl⟩

/-! ### The host's open and close (R101, R106, R107) -/

/-- What an open leaves: of the old state only the draw counter, and what lies outside the block, enters it. -/
theorem openSession_eq (s : State) :
    openSession s =
      { s with
        phase := .awaitingControl, pendAddr := Config.freeByte (s.draws + 64)
        pendLen := Config.freeByte (s.draws + 65), store := initStore s.draws, rxValid := false, rxData := []
        txData := [], sessionOpen := true, draws := s.draws + resetDraws } := rfl

theorem exec_sessionOpen (s : State) : exec .sessionOpen s = .next (openSession s) := exec_move .hostOpen s

/-- Settles O3: none of the block's elements occurs in what an open leaves. -/
theorem openForgetsTheBlock : Obligations.OpenForgetsTheBlock := by
  intro s ph pa pl st rv rd tx so
  simp only [exec_sessionOpen, openSession_eq]

/-- An open after a close is the open before it: the flag that the close clears is one that the open sets. -/
theorem openSession_closeSession (s : State) : openSession (closeSession s) = openSession s := by
  simp only [openSession_eq, closeSession]

/-- Settles O2: the open's closed form, and a closed session, in which a poll and a delivery do nothing. -/
theorem sessionOpenAndCloseAct : Obligations.SessionOpenAndCloseAct := by
  intro s
  refine ⟨openSession s, closeSession s, exec_sessionOpen s, exec_move .hostClose s, ⟨rfl, rfl, rfl, rfl, rfl⟩,
    openSession_eq s, fun bytes => ?delivered, rfl, ?polled, fun bytes => ?undelivered, ?reopened⟩
  case delivered =>
    exact ⟨_, exec_move (.inbound bytes) _, by rw [applyMove, deliver_of_open (openSession_sessionOpen s)]⟩
  case polled => exact (pollRunsTheDecodedFrame (closeSession s)).1 (.inl (closeSession_sessionOpen s))
  case undelivered => exact (inboundFrameFillsTheSlot bytes (closeSession s)).2 (closeSession_sessionOpen s)
  case reopened => rw [exec_sessionOpen, openSession_closeSession]

end Sys2Proof.Machine

/-! ## The family of the reset and the hazards (70_reset_and_hazards.md R106 to R115): what a reset leaves, how a
pending write ends, an overrun, a read that is not serviced, and a write of length 0 or one that the transport fails. -/

namespace Sys2Proof.Machine

/-! ### The reset (R107) -/

/-- Settles O1: power-on field by field, and the closed form of an open. -/
theorem resetAndOpenLeaveTheRuleValues : Obligations.ResetAndOpenLeaveTheRuleValues :=
  ⟨⟨rfl, rfl, rfl, rfl, rfl, rfl⟩, fun s => ⟨openSession s, exec_sessionOpen s, openSession_phase s,
    openSession_rxValid s, openSession_rxData s, openSession_txData s, openSession_sessionOpen s⟩⟩

theorem outputsAgree_blank : OutputsAgree CodecOut.blank :=
  outputsAgree_of_noData nofun rfl nofun

/-- Settles O54: both buffers are empty, and a blank record has nothing to disagree. -/
theorem invariantHoldsAtReset : Obligations.InvariantHoldsAtReset :=
  ⟨⟨Nat.zero_le _, Nat.zero_le _⟩, outputsAgree_blank⟩

/-! ### The overrun of the slot (R83, R113) -/

theorem deliver_sessionOpen (b : List Byte) (s : State) : (deliver b s).sessionOpen = s.sessionOpen := by
  rw [deliver_frame]

theorem deliver_phase (b : List Byte) (s : State) : (deliver b s).phase = s.phase := by
  rw [deliver_frame]

/-- The slot holds one frame, the last to arrive (R113). -/
theorem deliver_deliver (b₁ b₂ : List Byte) (s : State) : deliver b₂ (deliver b₁ s) = deliver b₂ s := by
  cases ho : s.sessionOpen with
  | false => rw [deliver_of_closed ho]
  | true =>
    rw [deliver_of_open ((deliver_sessionOpen b₁ s).trans ho), deliver_of_open ho, deliver_of_open ho]

/-- Settles O17: both sides are deliveries, of which the last alone counts. -/
theorem secondInboundFrameReplacesTheFirst : Obligations.SecondInboundFrameReplacesTheFirst := by
  intro b₁ b₂ s t h
  cases h
  exact congrArg Host.Outcome.next (deliver_deliver b₁ b₂ s)

/-! ### The end of a pending write (R82, R110, R111) -/

/-- The poll of an empty frame, if one waits, only empties the slot (R76). -/
theorem pollSlot_of_emptyFrame {s : State} (hopen : s.sessionOpen = true) (hf : s.rxData = []) :
    pollSlot s = consumed s := by
  cases hvalid : s.rxValid with
  | false => rw [pollSlot_of_not_ready (pollReady_of_rxValid hvalid), consumed, ← hvalid]
  | true =>
    rw [pollSlot_of_ready ((pollReady_iff s).2 ⟨hopen, hvalid⟩), hf, classify_nil]
    rfl

/-- A poll that changes the phase found a non-empty frame in an open session (R74, R76). -/
theorem frame_of_pollSlot_phase_ne {s : State} (h : (pollSlot s).phase ≠ s.phase) :
    s.sessionOpen = true ∧ s.rxValid = true ∧ s.rxData ≠ [] := by
  cases hr : pollReady s with
  | false => exact absurd (congrArg State.phase (pollSlot_of_not_ready hr)) h
  | true =>
    obtain ⟨hopen, hvalid⟩ := (pollReady_iff s).1 hr
    exact ⟨hopen, hvalid, fun hnil => h (by rw [pollSlot_of_emptyFrame hopen hnil, consumed_phase])⟩

/-- Settles O13, by the move: a delivery and a close leave the phase, a poll leaves it but for a non-empty frame. -/
theorem pendingWriteLeftOnlyByDataOrOpen : Obligations.PendingWriteLeftOnlyByDataOrOpen := by
  refine ⟨fun m s t h hs ht => ?move, fun n s t h => ?read⟩
  case read => cases h; exact outbound_phase n s
  case move =>
    cases (exec_move m s).symm.trans h
    have hne : (applyMove m s).phase ≠ s.phase := by rw [ht, hs]; nofun
    cases m with
    | poll => exact .inr ⟨rfl, frame_of_pollSlot_phase_ne hne⟩
    | inbound bytes => exact absurd (deliver_phase bytes s) hne
    | hostOpen => exact .inl rfl
    | hostClose => exact absurd (closeSession_phase s) hne

theorem memWrite_nil (st : Store) (a : Nat) : memWrite st a [] = st := by
  rw [memWrite, List.take_nil, writeCells]

/-- A non-empty frame completes a pending write of length 0 and stores nothing (R82, R112). -/
theorem pollSlot_of_zeroPending {s : State} (hopen : s.sessionOpen = true) (hvalid : s.rxValid = true)
    (hphase : s.phase = .awaitingDataCompletion) (hlen : s.pendLen = 0) (hf : s.rxData ≠ []) :
    pollSlot s = { s with rxValid := false, phase := .awaitingControl } := by
  have hnone : min s.pendLen.toNat s.rxData.length = 0 := by rw [hlen]; exact Nat.zero_min _
  rw [pollSlot_of_ready ((pollReady_iff s).2 ⟨hopen, hvalid⟩), hphase, classify_data hf, frameAction, dataPhase_eq,
    consumed_pendLen, hnone, List.take_zero, memWrite_nil]
  rfl

/-! ### A read that nobody services (R72, R84, R114) -/

/-- A frame of at most 64 bytes reaches the slot of an open session as it was sent (R22, R83). -/
theorem deliver_of_fits {s : State} (hopen : s.sessionOpen = true) {f : List Byte} (hf : f.length ≤ 64) :
    deliver f s = { s with rxData := f, rxValid := true } := by
  rw [deliver_of_open hopen, List.take_of_length_le (by unfold Config.rxCapacity; omega)]

/-- A read transaction during which nobody moves: the control frame waits in the slot, and the `R` frame is served
from what was staged before (R84, R114). -/
theorem emit_readTxn_of_noGaps {s : State} (hopen : s.sessionOpen = true) (henv : s.env = ⟨[], none⟩) (a l : Byte) :
    emit (readTxn s.config a l) s =
      handOver (readTxn s.config a l) (outbound (l.toNat + s.config.readOffset)
        { s with rxData := [a, dirRead, l], rxValid := true }) := by
  have hgap (i : Nat) : gapAt s.env i = [] := by rw [henv]; rfl
  rw [readTxn, emit_pair_eq_handOver (by rw [henv]), performFrame_w, performFrame_r]
  simp only [hgap, applyMoves]
  rw [deliver_of_fits hopen (f := [a, dirRead, l]) (by simp)]

/-- The decoder finds the staged reply of an open session at the head of what it returns, however long it is
(R70, R84). -/
theorem decodeRead_outbound_getElem? {s : State} {l j : Nat} (hopen : s.sessionOpen = true) (hj : j < l)
    (hlt : j < s.txData.length) :
    (decodeRead s.config (outbound (l + s.config.readOffset) s).raw l)[j]? = s.txData[j]? := by
  rw [decodeRead, slice_getElem?, if_pos (by omega), outbound_raw, outboundBytes_getElem?, if_pos (by omega),
    outboundByte_of_reply hopen _ (Nat.le_add_right ..) (by omega), Nat.add_sub_cancel_left]

/-- Settles O42: the control frame goes to the slot and stays there, and the `R` frame after it is served from the
reply that was staged before the call. -/
theorem unservicedReadReturnsThePreviousReply : Obligations.UnservicedReadReturnsThePreviousReply := by
  intro a n s hopen ha henv
  have hexec := exec_opRead_of_valid n s ha
  have hlen := lengthByte_clampedLen_toNat a.toNat n
  have hemit := emit_readTxn_of_noGaps (s := clampCall a n (startCall s)) hopen henv a
    (lengthByte (clampedLen a.toNat n))
  rw [clampCall_config, startCall_config, hlen] at hemit
  rw [transportFails_of_success (by rw [henv]), hemit] at hexec
  rw [← clampedLen_eq]
  refine ⟨_, _, hexec, rfl, decodeRead_length (outboundBytes_length ..), fun j hj hlt => ?reply,
    rfl, rfl, rfl, rfl, rfl, hopen, rfl, rfl⟩
  case reply =>
    exact decodeRead_outbound_getElem?
      (s := { clampCall a n (startCall s) with
        rxData := [a, dirRead, lengthByte (clampedLen a.toNat n)], rxValid := true }) hopen hj hlt

/-! ### What a write call leaves, whatever its outcome (R67, R71, R93, R115) -/

theorem performFrames_codec (fs : List BusFrame) (gaps : List (List Move)) (s : State) (o : CodecOut) :
    performFrames fs gaps { s with codec := o } = { performFrames fs gaps s with codec := o } := by
  induction fs generalizing gaps s with
  | nil => exact applyMoves_codec _ s o
  | cons f fs ih => rw [performFrames, performFrames, applyMoves_codec, performFrame_codec, ih]

/-- The emission of a transaction does to the block what the performed frames and the moves of their gaps do; of the
outputs it writes the transaction alone (R10). -/
theorem emit_codec (txn : List BusFrame) (s : State) (o : CodecOut) :
    emit txn { s with codec := o } =
      { performFrames (performedFrames s.env txn) s.env.gaps s with codec := { o with txn := txn } } :=
  performFrames_codec _ _ s _

/-- The begin of a call writes its outputs alone (R25, R66). -/
theorem clampCall_startCall (a : Byte) (n : Nat) (s : State) :
    clampCall a n (startCall s) = { s with codec := clampFlags a.toNat n CodecOut.blank } := rfl

/-- A write call does to the block what the performed frames of its transaction and the moves of their gaps do, and
ends by the transport's outcome (R71, R93, R115). -/
theorem exec_opWrite_performed {a : Byte} {n : Nat} {p : List Byte} (s : State) (ha : a.toNat ≤ 63)
    (hp : inrange a.toNat n ≤ p.length) :
    ∃ l o, exec (.opWrite a n p) s =
        .next { performFrames (performedFrames s.env (writeTxn a l p)) s.env.gaps s with codec := o } ∧
      l.toNat = inrange a.toNat n ∧ o.status = some (if transportFails s then .transportFailure else .ok) := by
  have hexec := exec_opWrite_of_valid s ha (by rwa [clampedLen_eq_inrange])
  have hlen := lengthByte_clampedLen_toNat a.toNat n
  generalize lengthByte (clampedLen a.toNat n) = l at hexec hlen
  rw [clampCall_startCall, emit_codec, finishWrite_eq] at hexec
  exact ⟨l, _, hexec, hlen.trans (clampedLen_eq_inrange ..), rfl⟩

/-- The PSM has polled the control frame of a write and awaits its data (R78). -/
def writePending (a l : Byte) (s : State) : State :=
  ctrlWrite a l { s with rxData := [a, dirWrite, l], rxValid := false }

/-- The control frame of a write, sent to a ready peripheral and polled in the gap after it (R78). -/
theorem applyMoves_deliver_ctrlWrite {s : State} {g₀ g₁ : List Move} (hr : Ready s) (h₀ : OnlyPolls g₀)
    (h₁ : Polled g₁) (a l : Byte) :
    applyMoves g₁ (deliver [a, dirWrite, l] (applyMoves g₀ s)) = writePending a l s := by
  have ⟨_, _, hempty⟩ := hr
  rw [applyMoves_onlyPolls h₀ (pollReady_of_rxValid hempty), applyMoves_polled _ h₁, pollSlot_deliver_ctrlWrite hr,
    writePending]

theorem performFrames_nil (e : CallEnv) (s : State) : performFrames [] e.gaps s = applyMoves (gapAt e 0) s := by
  rw [performFrames, headD_eq_gapAt]

/-- The control frame of a write alone, polled: the PSM awaits the data (R78, R115). -/
theorem performFrames_ctrlWrite {s : State} {e : CallEnv} (hr : Ready s) (h₀ : OnlyPolls (gapAt e 0))
    (h₁ : Polled (gapAt e 1)) (a l : Byte) :
    performFrames [.w [a, dirWrite, l]] e.gaps s = writePending a l s := by
  rw [performFrames, performFrames, headD_eq_gapAt, tail_headD_eq_gapAt, performFrame_w,
    applyMoves_deliver_ctrlWrite hr h₀ h₁]

/-- Both frames of a write, the first polled before the second: the data frame reaches a PSM that awaits it, and the
moves of the last gap follow (R67, R78). -/
theorem performFrames_writeTxn {s : State} {e : CallEnv} (hr : Ready s) (h₀ : OnlyPolls (gapAt e 0))
    (h₁ : Polled (gapAt e 1)) (a l : Byte) (p : List Byte) :
    performFrames (writeTxn a l p) e.gaps s =
      applyMoves (gapAt e 2) (deliver (p.take l.toNat) (writePending a l s)) := by
  simp only [writeTxn, slice_zero, performFrames, performFrame_w, headD_eq_gapAt, tail_headD_eq_gapAt,
    tail_tail_headD_eq_gapAt, applyMoves_deliver_ctrlWrite hr h₀ h₁]

/-! ### A write of length 0 (R67, R112) -/

/-- After a delivery to an open session, only a poll lets the next frame arrive (R113). -/
theorem polled_of_mayArrive_deliver {s : State} {g : List Move} {b : List Byte} (hopen : s.sessionOpen = true)
    (hg : OnlyPolls g) (h : mayArrive (applyMoves g (deliver b s)) = true) : Polled g := by
  obtain ⟨hmem, -⟩ | ⟨-, hnone⟩ := applyMoves_onlyPolls_cases (deliver b s) hg
  · exact ⟨hg, hmem⟩
  · rw [hnone, mayArrive_eq_true, deliver_of_open hopen, pollReady, hopen] at h
    cases h

/-- Under `POLLED_BEFORE_NEXT_FRAME` the PSM polls between the two frames of a write to a ready peripheral. -/
theorem polled_of_callPolled {s : State} {a : Byte} {n : Nat} {p : List Byte} (hr : Ready s)
    (hok : s.env.failAfter = none) (hund : Undisturbed s.env) (ha : a.toNat ≤ 63)
    (hpolled : CallPolledBeforeNextFrame (.write a n p) s) : Polled (gapAt s.env 1) := by
  have ⟨hpolls0, hpolls1, _⟩ := hund
  have ⟨hopen, _, hempty⟩ := hr
  rw [CallPolledBeforeNextFrame, requestPolled_call hok (callTxn_write s.config ha n p)] at hpolled
  have ⟨_, harrive⟩ := (framesPolled_pair hund _ _ s).1 hpolled
  rw [applyMoves_onlyPolls hpolls0 (pollReady_of_rxValid hempty)] at harrive
  exact polled_of_mayArrive_deliver hopen hpolls1 harrive

/-- The poll of an empty frame that was just delivered (R76, R83). -/
theorem pollSlot_deliver_nil {s : State} (hopen : s.sessionOpen = true) :
    pollSlot (deliver [] s) = { s with rxData := [], rxValid := false } := by
  rw [pollSlot_deliver hopen (Nat.zero_le _), classify_nil]
  rfl

/-- Polls after the delivery of an empty frame do no more than empty the slot. -/
theorem consumed_applyMoves_deliver_nil {s : State} {g : List Move} (hopen : s.sessionOpen = true)
    (hg : OnlyPolls g) :
    consumed (applyMoves g (deliver [] s)) = { s with rxData := [], rxValid := false } := by
  obtain ⟨-, h⟩ | ⟨-, h⟩ := applyMoves_onlyPolls_cases (deliver [] s) hg
  · rw [h, pollSlot_deliver_nil hopen, consumed]
  · rw [h, deliver_of_open hopen, List.take_nil, consumed]

/-- Settles O43: the empty data frame reaches a PSM that awaits data and is consumed without effect, now or by the
poll after the call; the next frame then completes the pending write of length 0. -/
theorem zeroLengthWriteSwallowsTheNextFrame : Obligations.ZeroLengthWriteSwallowsTheNextFrame := by
  intro a p s hr hok hund hpolled ha
  have ⟨hopen, _, _⟩ := hr
  have ⟨hpolls0, _, hpolls2⟩ := hund
  have hzero : inrange a.toNat 0 = 0 := Nat.zero_min _
  have hgap1 := polled_of_callPolled hr hok hund ha hpolled
  obtain ⟨l, o, hexec, hlen, hstatus⟩ := exec_opWrite_performed (n := 0) (p := p) s ha (by omega)
  rw [hzero] at hlen
  rw [transportFails_of_success hok] at hstatus
  rw [performedFrames_of_success hok, performFrames_writeTxn hr hpolls0 hgap1, hlen, List.take_zero] at hexec
  obtain rfl : l = 0 := BitVec.eq_of_toNat_eq hlen
  have hw : (writePending a 0 s).sessionOpen = true := hopen
  refine ⟨_, { writePending a 0 s with rxData := [], rxValid := false, codec := o }, hexec, hstatus, ?poll,
    fun hmem => ?lastGap, ?consumed, rfl, rfl, rfl, hopen, rfl, rfl, fun f hf => ?next⟩
  case poll => rw [exec_poll, pollSlot_codec, pollSlot_applyMoves _ hpolls2, pollSlot_deliver_nil hw]
  case lastGap => rw [applyMoves_polled _ ⟨hpolls2, hmem⟩, pollSlot_deliver_nil hw]
  case consumed =>
    exact congrArg (fun u : State => { u with codec := o }) (consumed_applyMoves_deliver_nil hw hpolls2).symm
  case next =>
    exact congrArg Host.Outcome.next (pollSlot_of_zeroPending
      (s := { writePending a 0 s with codec := o, rxValid := true, rxData := f }) hopen rfl rfl rfl hf)

/-! ### A write that the transport fails (R93, R115) -/

/-- Settles O44: the call leaves what its performed frames leave, which are none, the control frame or both. -/
theorem failedWriteCallKeepsWhatWasDelivered : Obligations.FailedWriteCallKeepsWhatWasDelivered := by
  intro a n p s hr ha hp
  rw [← inrange_eq] at hp ⊢
  have ⟨hopen, _, hempty⟩ := hr
  obtain ⟨l, o, hexec, hlen, hstatus⟩ := exec_opWrite_performed s ha hp
  have hfailed {k : Nat} (hfail : s.env.failAfter = some k) : o.status = some .transportFailure := by
    rw [hstatus, transportFails_of_failure (by rw [hfail]; nofun)]; rfl
  refine ⟨fun hfail h₀ => ⟨_, hexec, hfailed hfail, ?none⟩, fun hfail h₀ h₁ => ⟨_, hexec, hfailed hfail, ?control⟩,
    fun k hfail hk hn h₀ h₁ h₂ => ⟨_, hexec, hfailed hfail, ?both⟩⟩
  case none =>
    have hframes : performedFrames s.env (writeTxn a l p) = [] := by rw [performedFrames, hfail]; rfl
    rw [hframes, performFrames_nil, applyMoves_onlyPolls h₀ (pollReady_of_rxValid hempty)]
  case control =>
    have hframes : performedFrames s.env (writeTxn a l p) = [.w [a, dirWrite, l]] := by
      rw [performedFrames, hfail]; rfl
    rw [hframes, performFrames_ctrlWrite hr h₀ h₁]
    exact ⟨rfl, rfl, hlen, rfl, rfl⟩
  case both =>
    have hdata : (p.take l.toNat).length = l.toNat := List.length_take_of_le (by omega)
    have hpos : 1 ≤ inrange a.toNat n := by rw [inrange_eq]; omega
    have hle : inrange a.toNat n ≤ 64 := inrange_le_store _ _
    rw [performedFrames_of_length_le (t := writeTxn a l p) hfail hk, performFrames_writeTxn hr h₀ h₁,
      applyMoves_polled _ h₂, pollSlot_deliver_data (s := writePending a l s) hopen rfl
        (List.ne_nil_of_length_pos (by omega)) (by omega) hdata, hlen]
    exact ⟨⟨hopen, rfl, rfl⟩, rfl, rfl, hlen, fun i hi => readCell_memWrite_take s.store hp hi⟩

end Sys2Proof.Machine

/-! ## The remaining statements: a bus read of a closed session (R84, D22, U5), and a write call with too short a
payload (R67, D14, X1) -/

namespace Sys2Proof.Machine

/-- A closed session carries no byte of a staged reply, whatever the position (D22, U5). -/
theorem outboundByte_of_closed {s : State} (hclosed : s.sessionOpen = false) (k j : Nat) :
    outboundByte s k j = Config.freeByte (k + j) := by
  rw [outboundByte, if_neg (by simp [hclosed])]

/-- Settles O19: the read fills the receive region position by position, each from the draw of its own index. -/
theorem outboundReadOfClosedSessionIsFree : Obligations.OutboundReadOfClosedSessionIsFree := by
  intro n s hclosed
  refine ⟨outbound n s, rfl, rfl, outboundBytes_length s n, fun j hj => ?_⟩
  rw [outbound_raw, outboundBytes_getElem?, if_pos hj, outboundByte_of_closed hclosed]

/-- Settles O34: the clamped length, which the payload has to cover, is the length up to the end of the store. -/
theorem writeCallRefusesAShortPayload : Obligations.WriteCallRefusesAShortPayload := by
  intro a n p s ha hshort
  exact exec_opWrite_of_short s ha (by rwa [clampedLen_eq])

end Sys2Proof.Machine
